-- ==== Sys2Proof/Word.lean ====
section
/-! DEFINITION. The words of pre_emphasis_fir (spec/00_scope.md R8, R7): a word is 32 bits, memory is addressed by
bytes, a host transaction is selected by 7 bits. -/

namespace Sys2Proof

/-- A 32-bit word, unsigned (R8): a register, a sample, a command word. -/
abbrev Word := BitVec 32

/-- One byte of data memory (R41, R45). -/
abbrev Byte := BitVec 8

/-- The 7-bit selector `{W, OFF}` of a host transaction (R65). -/
abbrev Sel := BitVec 7

/-- 2^32: the first number that is no byte address of the memory port (R7 ADDR_WIDTH, R41). -/
abbrev addrLimit : Nat := 4294967296

end Sys2Proof
end

