-- ==== Sys2Proof/Syntax.lean ====
section
/-! DEFINITION. What the block decodes: one constructor per row of spec/opcode_table.json (30_encoding.md R71), and the
two formats a thing to decode comes in (R64). -/

namespace Sys2Proof

/-- An instruction of the block: a command word (format CMD: NOP, RUN, ILLEGAL) or a host transaction (format BUS).
`d` is the 32-bit DATA of a write; `k` is OFF[3:2] of the rows whose mask is 0x73. -/
inductive Instr where
  | nop
  | run
  | illegal (v : Word)
  | rdId
  | rdCtrl
  | rdStatus
  | rdCmd
  | rdCoef
  | rdSrc
  | rdDst
  | rdLen
  | rdCount
  | rdPrev
  | rdErrInfo
  | rdRsvd
  | rdRsvdHi (k : BitVec 2)
  | wrId (d : Word)
  | wrCtrl (d : Word)
  | wrStatus (d : Word)
  | wrCmd (d : Word)
  | wrCoef (d : Word)
  | wrSrc (d : Word)
  | wrDst (d : Word)
  | wrLen (d : Word)
  | wrCount (d : Word)
  | wrPrev (d : Word)
  | wrErrInfo (d : Word)
  | wrRsvd (d : Word)
  | wrRsvdHi (k : BitVec 2) (d : Word)
deriving DecidableEq, Repr

/-- What is decoded (R64): a host transaction, its 7-bit selector and its data word (R65; a read's data word is the
value returned, so it plays no part in decoding), or the 32-bit word of a host write to CMD (R67). -/
inductive Packet where
  | bus (sel : Sel) (data : Word)
  | cmd (v : Word)
deriving DecidableEq, Repr

end Sys2Proof
end

