-- ==== Sys2Proof/WellFormed.lean ====
section
/-! DEFINITION. The instructions that an encoding of the table stands for. -/

namespace Sys2Proof

/-- ILLEGAL stands for a command word that is neither NOP's nor RUN's (R72); every other operand takes every value. -/
def Instr.wellFormed : Instr → Bool
  | .illegal v => v != 0 && v != 1
  | .nop => true
  | .run => true
  | .rdId => true
  | .rdCtrl => true
  | .rdStatus => true
  | .rdCmd => true
  | .rdCoef => true
  | .rdSrc => true
  | .rdDst => true
  | .rdLen => true
  | .rdCount => true
  | .rdPrev => true
  | .rdErrInfo => true
  | .rdRsvd => true
  | .rdRsvdHi _ => true
  | .wrId _ => true
  | .wrCtrl _ => true
  | .wrStatus _ => true
  | .wrCmd _ => true
  | .wrCoef _ => true
  | .wrSrc _ => true
  | .wrDst _ => true
  | .wrLen _ => true
  | .wrCount _ => true
  | .wrPrev _ => true
  | .wrErrInfo _ => true
  | .wrRsvd _ => true
  | .wrRsvdHi _ _ => true

end Sys2Proof
end

