-- ==== Sys2Proof/Decode.lean ====
section
/-! DEFINITION. The decoder of both formats (30_encoding.md R64–R67, R71), total on every packet, and the encoder. -/

namespace Sys2Proof

/-- Why a host transaction does not decode. -/
inductive DecodeError where
  /-- R66: OFF[1:0] is not 00, so the selector names no register -/
  | unalignedOffset (sel : Sel)
  /-- no row of the BUS table matches; never happens to an aligned selector -/
  | noRow (sel : Sel)
deriving DecidableEq, Repr

/-- OFF of a selector (R65). -/
def selOff (sel : Sel) : BitVec 6 := sel.extractLsb' 0 6

/-- W of a selector (R65): 1 for a write. -/
def selWrite (sel : Sel) : Bool := sel.getLsbD 6

/-- The selector `{W, OFF}` (R65). -/
def selOf (write : Bool) (off : BitVec 6) : Sel := BitVec.ofBool write ++ off

/-- OPCODE of a command word (R67). -/
def cmdOpcode (v : Word) : BitVec 8 := v.extractLsb' 0 8

/-- RSVD of a command word (R67). -/
def cmdRsvd (v : Word) : BitVec 24 := v.extractLsb' 8 24

/-- One BUS row of the opcode table: a selector matches when its bits under `mask` are `value`. -/
structure BusRow where
  mask : Sel
  value : Sel
  instr : Sel → Word → Instr

def BusRow.hits (r : BusRow) (sel : Sel) : Bool := sel &&& r.mask == r.value

/-- OFF[3:2], the bits that the rows with mask 0x73 leave open. -/
def rsvdSlot (sel : Sel) : BitVec 2 := sel.extractLsb' 2 2

/-- The read rows of R71. -/
def readRows : List BusRow :=
  [⟨0x7F, 0x00, fun _ _ => .rdId⟩, ⟨0x7F, 0x04, fun _ _ => .rdCtrl⟩, ⟨0x7F, 0x08, fun _ _ => .rdStatus⟩,
   ⟨0x7F, 0x0C, fun _ _ => .rdCmd⟩, ⟨0x7F, 0x10, fun _ _ => .rdCoef⟩, ⟨0x7F, 0x14, fun _ _ => .rdSrc⟩,
   ⟨0x7F, 0x18, fun _ _ => .rdDst⟩, ⟨0x7F, 0x1C, fun _ _ => .rdLen⟩, ⟨0x7F, 0x20, fun _ _ => .rdCount⟩,
   ⟨0x7F, 0x24, fun _ _ => .rdPrev⟩, ⟨0x7F, 0x28, fun _ _ => .rdErrInfo⟩, ⟨0x7F, 0x2C, fun _ _ => .rdRsvd⟩,
   ⟨0x73, 0x30, fun sel _ => .rdRsvdHi (rsvdSlot sel)⟩]

/-- The write rows of R71. -/
def writeRows : List BusRow :=
  [⟨0x7F, 0x40, fun _ d => .wrId d⟩, ⟨0x7F, 0x44, fun _ d => .wrCtrl d⟩, ⟨0x7F, 0x48, fun _ d => .wrStatus d⟩,
   ⟨0x7F, 0x4C, fun _ d => .wrCmd d⟩, ⟨0x7F, 0x50, fun _ d => .wrCoef d⟩, ⟨0x7F, 0x54, fun _ d => .wrSrc d⟩,
   ⟨0x7F, 0x58, fun _ d => .wrDst d⟩, ⟨0x7F, 0x5C, fun _ d => .wrLen d⟩, ⟨0x7F, 0x60, fun _ d => .wrCount d⟩,
   ⟨0x7F, 0x64, fun _ d => .wrPrev d⟩, ⟨0x7F, 0x68, fun _ d => .wrErrInfo d⟩, ⟨0x7F, 0x6C, fun _ d => .wrRsvd d⟩,
   ⟨0x73, 0x70, fun sel d => .wrRsvdHi (rsvdSlot sel) d⟩]

/-- The BUS table of R71. -/
def busTable : List BusRow := readRows ++ writeRows

/-- Decoding a host transaction (R65, R66, R71). -/
def decodeBus (sel : Sel) (data : Word) : Except DecodeError Instr :=
  if (selOff sel).extractLsb' 0 2 ≠ 0 then .error (.unalignedOffset sel)
  else
    match busTable.find? (·.hits sel) with
    | some r => .ok (r.instr sel data)
    | none => .error (.noRow sel)

/-- Decoding a command word (R67, R71, R72): NOP and RUN when RSVD is 0, everything else ILLEGAL. -/
def decodeCmd (v : Word) : Instr :=
  if cmdRsvd v ≠ 0 then .illegal v
  else if cmdOpcode v = 0 then .nop
  else if cmdOpcode v = 1 then .run
  else .illegal v

/-- The decoder: total on every packet, rejecting by name (R64, R80). -/
def decode : Packet → Except DecodeError Instr
  | .bus sel data => decodeBus sel data
  | .cmd v => .ok (decodeCmd v)

/-- The packet of an instruction, from R67 and the selectors of R71. A read carries no data word; 0 stands in its place. -/
def encode : Instr → Packet
  | .nop => .cmd 0x00000000
  | .run => .cmd 0x00000001
  | .illegal v => .cmd v
  | .rdId => .bus 0x00 0
  | .rdCtrl => .bus 0x04 0
  | .rdStatus => .bus 0x08 0
  | .rdCmd => .bus 0x0C 0
  | .rdCoef => .bus 0x10 0
  | .rdSrc => .bus 0x14 0
  | .rdDst => .bus 0x18 0
  | .rdLen => .bus 0x1C 0
  | .rdCount => .bus 0x20 0
  | .rdPrev => .bus 0x24 0
  | .rdErrInfo => .bus 0x28 0
  | .rdRsvd => .bus 0x2C 0
  | .rdRsvdHi k => .bus (selOf false (0b11#2 ++ k ++ 0b00#2)) 0
  | .wrId d => .bus 0x40 d
  | .wrCtrl d => .bus 0x44 d
  | .wrStatus d => .bus 0x48 d
  | .wrCmd d => .bus 0x4C d
  | .wrCoef d => .bus 0x50 d
  | .wrSrc d => .bus 0x54 d
  | .wrDst d => .bus 0x58 d
  | .wrLen d => .bus 0x5C d
  | .wrCount d => .bus 0x60 d
  | .wrPrev d => .bus 0x64 d
  | .wrErrInfo d => .bus 0x68 d
  | .wrRsvd d => .bus 0x6C d
  | .wrRsvdHi k d => .bus (selOf true (0b11#2 ++ k ++ 0b00#2)) d

/-- An instruction of the opcode table as a packet. A BUS row has 7 bits, so 8 in whole bytes (the selector, its bit 7
zero), and its data word is 0; with 40 bits the data word follows the selector. A CMD row has 32. -/
def tablePacket (nbits w : Nat) : Option Packet :=
  if nbits ≤ 8 then (if w < 128 then some (.bus (BitVec.ofNat 7 w) 0) else none)
  else if nbits = 32 then (if w < 4294967296 then some (.cmd (BitVec.ofNat 32 w)) else none)
  else if nbits = 40 then
    (if w % 256 < 128 ∧ w < 1099511627776 then some (.bus (BitVec.ofNat 7 (w % 256)) (BitVec.ofNat 32 (w / 256))) else none)
  else none

/-- The instruction the decoder reads from an instruction of the table whose bits are `w`. -/
def decodeTableWord (nbits w : Nat) : Option Instr :=
  match tablePacket nbits w with
  | none => none
  | some p =>
    match decode p with
    | .ok i => some i
    | .error _ => none

end Sys2Proof
end

