-- ==== Sys2Proof/Config.lean ====
section
/-! DEFINITION. The parameters of R7. What the spec fixes has a value; what it leaves OPEN, and every "any value" of it,
is a constant without a body, so that nothing can be proved of its value. -/

namespace Sys2Proof

/-- An operation that can answer NAN_RESULT, with its operand words (R125, R126, R127). -/
inductive NanOp where
  | mul (a b : Word)
  | sub (a b : Word)
  | fms (x c p : Word)
deriving DecidableEq, Repr

/-- Where the spec says a word is "any value": each use draws its own word. -/
inductive FreeUse where
  /-- R142: the word of a write that answered BusError -/
  | failedWrite
  /-- R159: the word whose write was in flight at reset -/
  | resetWrite
  /-- R58: an output word that a racing access made any value -/
  | racedOutput
deriving DecidableEq, Repr

namespace Config

/-- ID_VALUE (R7, R21). -/
def idValue : Word := 0x50454D01

/-- FUSED_MAC (R7, D11): fixed `false` for this hardware: the product is rounded, then the difference. -/
def fusedMac : Bool := false

/-- REG_BASE (R7, R19; OPEN): where the platform places the register window. No rule depends on it: a host access
carries its offset from it. -/
opaque regBase : Word

/-- NAN_RESULT (R7, R128; OPEN): the bits the spec leaves free in a NaN result: its sign (bit 22 here) and the 22
payload bits below the quiet bit. `Machine.nanResult` makes the quiet NaN of them. -/
opaque nanBits : NanOp → BitVec 23

/-- The memory oracle (R10, R53, D36; OPEN): the byte that memory holds at an address nothing has written. -/
opaque memOracle : Nat → Byte

/-- A word of "any value": for a use, the number of the draw (`State.freeCount`) and the index of the sample. -/
opaque freeWord : FreeUse → Nat → Nat → Word

/-- R58: whether a racing host read of an output word sees the old word (`true`) or the new one, for the number of the
draw and the index of the sample. -/
opaque seesOld : Nat → Nat → Bool

end Config
end Sys2Proof
end

