-- ==== Sys2Proof/Machine/State.lean ====
section
/-! DEFINITION. The machine's state (10_state.md R18, R19, R41), what can happen to it from outside, the reasons a step
stops, and the state right after reset (R44). INVENTORY.md, '## State', lists every field with its rule. -/

namespace Sys2Proof.Machine

/-- The two kinds of access of the memory port (R10, R51). -/
inductive AccessKind where
  | read
  | write
deriving DecidableEq, Repr

/-- Bytes of data memory at which one kind of engine access answers BusError (BUS_ERROR, R142). -/
structure ErrRegion where
  kind : AccessKind
  base : Nat
  size : Nat
deriving DecidableEq, Repr

/-- One access on the host's register port (R11, R65). `host` numbers the agent that makes it, 0 being the block's one
host (R154); `bytes` is its width in bytes and `off` its byte offset from REG_BASE (R19, R50). -/
structure HostAccess where
  host : Nat
  bytes : Nat
  write : Bool
  off : Nat
  data : Word
deriving DecidableEq, Repr

/-- What the outside, or the schedule, has the machine do in one step (R14, R157, R76). -/
inductive Input where
  /-- one access on the register port (R11) -/
  | access (a : HostAccess)
  /-- the host writes the command word `v` to CMD, in format CMD (R67, R106) -/
  | command (v : Word)
  /-- the schedule lets the engine take a step (R116) -/
  | engine
  /-- `rst_n` is asserted; `inFlight`: while the engine's write of the current sample is in flight (R157, R159) -/
  | assertReset (inFlight : Bool)
  /-- `rst_n` is deasserted (R158) -/
  | releaseReset
  /-- the host, or another bus master, writes bytes of data memory through the platform (R47, R76 `mw`) -/
  | memWrite (addr : Nat) (bytes : List Byte)
  /-- the host reads one word of data memory through the platform (R76 `mr`) -/
  | memRead (addr : Nat)
  /-- the platform's state changes: from here on these accesses answer BusError (R142) -/
  | busErrors (errs : List ErrRegion)
deriving DecidableEq, Repr

/-- Data memory: the bytes that have been written, by address. -/
abbrev Memory := List Host.Cell

/-- The whole machine. ID and CMD store nothing (R18, R28) and `irq` is a function of the registers (R137), so none of
the three is a field. -/
structure State where
  /-- CTRL.IRQ_EN (R22) -/
  irqEn : Bool
  /-- STATUS.BUSY (R24) -/
  busy : Bool
  /-- STATUS.DONE (R25) -/
  done : Bool
  /-- STATUS.OVR (R26) -/
  ovr : Bool
  /-- STATUS.ERRCODE (R27) -/
  errCode : BitVec 4
  /-- COEF (R29) -/
  coef : Word
  /-- SRC (R30) -/
  src : Word
  /-- DST (R31) -/
  dst : Word
  /-- LEN (R32) -/
  len : Word
  /-- COUNT (R33), the sequencer position (R40) -/
  count : Word
  /-- PREV, the delay element (R34) -/
  prev : Word
  /-- ERR_INFO (R35) -/
  errInfo : Word
  /-- data memory (R41): the bytes something has written, by address, strictly rising; no address of it is a register of
  this block or a device (DESIGN CHOICE, log 24) -/
  mem : Memory
  /-- BUS_ERROR (R142), the platform's state as far as the block sees it -/
  busErrs : List ErrRegion
  /-- `rst_n` is asserted (R158) -/
  inReset : Bool
  /-- what happens next, first to last: the schedule of R14 -/
  inputs : List Input
  /-- MODEL'S OWN: the word the host's last read returned (R81), none before its first read -/
  readData : Option Word
  /-- MODEL'S OWN: data memory as it stood when the current run started, the "old word" of R58; empty when idle -/
  runMem : Memory
  /-- MODEL'S OWN: input words another master wrote during the current run (R58) -/
  racedIn : List Nat
  /-- MODEL'S OWN: output words another master wrote during the current run (R58) -/
  racedOut : List Nat
  /-- MODEL'S OWN: how many times a free value has been drawn -/
  freeCount : Nat
deriving DecidableEq, Repr

/-- Why the machine stops with a fault. -/
inductive Fault where
  /-- An access to data memory at or past 2^32, which is no address of the memory port (R41). Raised by a host memory
  access of the schedule (safe: the spec gives it no meaning) and by an engine step whose sample lies there, which no
  reachable state takes (R112, R69; safe). -/
  | addressOutOfSpace (addr : Nat)
deriving DecidableEq, Repr

/-- Why the model gives an input no meaning. Each of these but the first is a refusal the spec itself states. -/
inductive Refusal where
  /-- An instruction that has no meaning yet: raised only by a refused arm of `exec`. Safe. -/
  | notModelled (mnemonic : String)
  /-- R50, R81: the host access is not 32 bits wide. Raised by the host port. Safe. -/
  | nonWordAccess (bytes : Nat)
  /-- R50, R66, R81: the host access is at an offset that is not a multiple of 4. Raised by the host port. Safe. -/
  | unalignedOffset (sel : Sel)
  /-- R50: the host access lies outside the 64-byte window. Raised by the host port. Safe. -/
  | outsideWindow (off : Nat)
  /-- R154: a second host agent accesses the window. Raised by the host port. Safe. -/
  | secondHost (host : Nat)
  /-- R158: a host access while `rst_n` is asserted. Raised by the host port. Safe. -/
  | duringReset
  /-- No row of the table matches an aligned selector; never raised, since the table covers every one (R71). Safe. -/
  | noRow (sel : Sel)
deriving DecidableEq, Repr

/-- The machine right after reset (R44, R161): every register at the value R44 gives, nothing written to memory, `rst_n`
deasserted, nothing scheduled. -/
def State.reset : State where
  irqEn := false
  busy := false
  done := false
  ovr := false
  errCode := 0
  coef := 0
  src := 0
  dst := 0
  len := 0
  count := 0
  prev := 0
  errInfo := 0
  mem := []
  busErrs := []
  inReset := false
  inputs := []
  readData := none
  runMem := []
  racedIn := []
  racedOut := []
  freeCount := 0

end Sys2Proof.Machine
end

