-- ==== Sys2Proof/Machine/Flags.lean ====
section
/-! DEFINITION. The status flags and what is computed from them (10_state.md R23–R27, R37; 60_exceptions.md R137). -/

namespace Sys2Proof.Machine

/-- STATUS as the host reads it: `{20'b0, ERRCODE, 5'b0, OVR, DONE, BUSY}` (R23, R84). -/
def State.statusWord (s : State) : Word :=
  (0 : BitVec 20) ++ s.errCode ++ (0 : BitVec 5) ++ BitVec.ofBool s.ovr ++ BitVec.ofBool s.done ++ BitVec.ofBool s.busy

/-- CTRL as the host reads it: IRQ_EN zero-extended (R22, R83). -/
def State.ctrlWord (s : State) : Word := (0 : BitVec 31) ++ BitVec.ofBool s.irqEn

/-- The interrupt output `irq` (R137). -/
def State.irq (s : State) : Bool := s.irqEn && s.done

/-- A write was dropped because BUSY was 1 (R26, R143). -/
def State.setOvr (s : State) : State := { s with ovr := true }

/-- The W1C write of STATUS (R96): bit 1 clears DONE, bit 2 clears OVR. -/
def State.clearStatus (s : State) (d : Word) : State :=
  { s with done := s.done && !d.getLsbD 1, ovr := s.ovr && !d.getLsbD 2 }

end Sys2Proof.Machine
end

