-- ==== Sys2Proof/Machine/Fp.lean ====
section
/-! DEFINITION. Binary32 arithmetic and the filter (42_fir_sample.md R122–R136). Every finite binary32 value is a whole
number of units of 2^-149, so sums and products are computed exactly in Int and rounded once, at the end (R124). -/

namespace Sys2Proof.Machine

/-- `w[31]` (R123). -/
def fpSign (w : Word) : Bool := w.getLsbD 31

/-- The biased exponent `E = w[30:23]` (R122). -/
def fpExp (w : Word) : BitVec 8 := w.extractLsb' 23 8

/-- The fraction `F = w[22:0]` (R122). -/
def fpFrac (w : Word) : BitVec 23 := w.extractLsb' 0 23

/-- `isZero` (R123). -/
def isZero (w : Word) : Bool := w.extractLsb' 0 31 == 0

/-- `isNaN` (R123). -/
def isNaN (w : Word) : Bool := fpExp w == 0xFF && fpFrac w != 0

/-- `isInf` (R123). -/
def isInf (w : Word) : Bool := w.extractLsb' 0 31 == 0x7F800000

/-- `isFinite` (R123). -/
def isFinite (w : Word) : Bool := fpExp w != 0xFF

/-- A quiet NaN: `E = 0xFF` and `F[22] = 1` (R122, R128). -/
def isQuietNaN (w : Word) : Bool := fpExp w == 0xFF && w.getLsbD 22

/-- `inf(s)` (R123). -/
def fpInf (s : Bool) : Word := BitVec.ofBool s ++ (0x7F800000 : BitVec 31)

/-- `zero(s)` (R123). -/
def fpZero (s : Bool) : Word := BitVec.ofBool s ++ (0 : BitVec 31)

/-- The magnitude a 31-bit pattern `b` stands for, in units of 2^-149 (R122): F·2^-149 for a subnormal,
(1 + F·2^-23)·2^(E-127) for a normal. The pattern 0x7F800000 stands for 2^128, as R124 takes it. -/
def magUnits (b : Nat) : Nat :=
  if b / 8388608 = 0 then b
  else (8388608 + b % 8388608) * 2 ^ (b / 8388608 - 1)

/-- `val(w)` of a finite word (R122), in units of 2^-149. -/
def units (w : Word) : Int :=
  let m : Int := magUnits (w.extractLsb' 0 31).toNat
  if fpSign w then -m else m

/-- R124, steps 1 to 3, on the magnitude n·2^-q in units of 2^-149 (n not 0): the 31-bit pattern of the nearest element
of the finite magnitudes and 2^128, ties to the even pattern. `2^t` is the spacing, in units, of the 24-bit
significands around the magnitude; the quotient by it is rounded, and the pattern is t·2^23 plus that quotient. -/
def roundMag (n q : Nat) : Nat :=
  let t := Nat.log2 n - (q + 23)
  let step := 2 ^ (t + q)
  let m := n / step
  let r := n % step
  let up := if step < 2 * r ∨ (step = 2 * r ∧ m % 2 = 1) then 1 else 0
  min (t * 8388608 + m + up) 0x7F800000

/-- `round32` (R124) of the real whose sign is `neg` and whose magnitude is n·2^-q units of 2^-149, n not 0. -/
def round32 (neg : Bool) (n q : Nat) : Word :=
  BitVec.ofBool neg ++ BitVec.ofNat 31 (roundMag n q)

/-- NAN_RESULT (R128): the quiet NaN whose sign and payload the parameter leaves open. -/
def nanResult (op : NanOp) : Word :=
  let b := Config.nanBits op
  b.extractLsb' 22 1 ++ (0xFF : BitVec 8) ++ (1 : BitVec 1) ++ b.extractLsb' 0 22

/-- `f32_mul` (R125). The product of two units is 2^-298. -/
def f32Mul (a b : Word) : Word :=
  let s := fpSign a ^^ fpSign b
  if isNaN a || isNaN b then nanResult (.mul a b)
  else if (isInf a && isZero b) || (isZero a && isInf b) then nanResult (.mul a b)
  else if isInf a || isInf b then fpInf s
  else if isZero a || isZero b then fpZero s
  else round32 s (units a * units b).natAbs 149

/-- `f32_sub` (R126). -/
def f32Sub (a b : Word) : Word :=
  if isNaN a || isNaN b then nanResult (.sub a b)
  else if isInf a && isInf b && fpSign a == fpSign b then nanResult (.sub a b)
  else if isInf a then a
  else if isInf b then fpInf (!fpSign b)
  else if isZero a && isZero b then (if fpSign a != fpSign b then a else fpZero false)
  else
    let r := units a - units b
    if r = 0 then fpZero false else round32 (decide (r < 0)) r.natAbs 0

/-- `f32_fms` (R127): x - c·p with one rounding. -/
def f32Fms (x c p : Word) : Word :=
  let q := fpSign c ^^ fpSign p ^^ true
  if isNaN x || isNaN c || isNaN p then nanResult (.fms x c p)
  else if (isInf c && isZero p) || (isZero c && isInf p) then nanResult (.fms x c p)
  else if isInf c || isInf p then
    (if isInf x && fpSign x != q then nanResult (.fms x c p) else fpInf q)
  else if isInf x then x
  else
    let r := units x * 2 ^ 149 - units c * units p
    if r = 0 then
      (if isZero x && (isZero c || isZero p) && fpSign x == q then x else fpZero false)
    else round32 (decide (r < 0)) r.natAbs 149

/-- `fir(i, x, p, c)` (R130) for either value of FUSED_MAC (R133). -/
def firWith (fused : Bool) (i : Nat) (x p c : Word) : Word :=
  if i = 0 then x
  else if isZero c then x
  else if fused then f32Fms x c p
  else f32Sub x (f32Mul c p)

/-- `fir(i, x, p, c)` (R130) of this hardware. -/
def fir (i : Nat) (x p c : Word) : Word := firWith Config.fusedMac i x p c

/-- The outputs from sample `i` on, `p` being the input before it. -/
def preemphFrom (i : Nat) (p c : Word) : List Word → List Word
  | [] => []
  | x :: xs => fir i x p c :: preemphFrom (i + 1) x c xs

/-- `preemph(xs, c)` (R134). -/
def preemph (xs : List Word) (c : Word) : List Word := preemphFrom 0 0 c xs

end Sys2Proof.Machine
end

