-- ==== Sys2Proof/Machine/Memory.lean ====
section
/-! DEFINITION. Data memory (20_memory.md): the bytes something has written, a list by strictly rising address, over the
memory oracle (R10, R53); little-endian words (R45). -/

namespace Sys2Proof.Machine

/-- The canonical form: addresses strictly rising, each an address of the port. An unlisted address holds no written
byte, so no entry can repeat what an unlisted address reads as at this level; equal memories are equal lists. -/
abbrev Memory.wf (m : Memory) : Prop :=
  m.Pairwise (fun x y => x.1 < y.1) ∧ ∀ c ∈ m, c.1 < addrLimit

/-- The byte written at an address, if one has been. -/
def Memory.get? : Memory → Nat → Option Byte
  | [], _ => none
  | (k, b) :: m, a => if a < k then none else if a = k then some b else Memory.get? m a

/-- Writing one byte. -/
def Memory.set : Memory → Nat → Byte → Memory
  | [], a, b => [(a, b)]
  | (k, c) :: m, a, b =>
    if a < k then (a, b) :: (k, c) :: m
    else if a = k then (a, b) :: m
    else (k, c) :: Memory.set m a b

/-- The byte memory holds at an address: the last one written there, else the oracle's (R10, R53, D36). -/
def Memory.byteAt (m : Memory) (a : Nat) : Byte := (m.get? a).getD (Config.memOracle a)

/-- `{M[a+3], M[a+2], M[a+1], M[a]}` (R45). -/
def Memory.wordAt (m : Memory) (a : Nat) : Word :=
  m.byteAt (a + 3) ++ m.byteAt (a + 2) ++ m.byteAt (a + 1) ++ m.byteAt a

/-- Byte `k` of a word: bits 8k+7:8k (R45, R46). -/
def byteLane (v : Word) (k : Nat) : Byte := v.extractLsb' (8 * k) 8

/-- Writing a word, its least significant byte at the lowest address (R45). -/
def Memory.setWord (m : Memory) (a : Nat) (v : Word) : Memory :=
  (((m.set a (byteLane v 0)).set (a + 1) (byteLane v 1)).set (a + 2) (byteLane v 2)).set (a + 3) (byteLane v 3)

/-- The `n` words from address `a` on: a signal of n samples (R48). -/
def Memory.words (m : Memory) (a : Nat) : Nat → List Word
  | 0 => []
  | n + 1 => m.wordAt a :: Memory.words m (a + 4) n

/-- Whether an error region answers a word access of this kind at this address. -/
def ErrRegion.hits (r : ErrRegion) (k : AccessKind) (a : Nat) : Bool :=
  r.kind == k && decide (r.base < a + 4) && decide (a < r.base + r.size)

/-- BUS_ERROR (R142): whether the platform answers this access with BusError. -/
def State.busError (s : State) (k : AccessKind) (a : Nat) : Bool := s.busErrs.any (·.hits k a)

end Sys2Proof.Machine
end

