-- ==== Sys2Proof/Machine/Operands.lean ====
section
/-! DEFINITION. The operand forms: a RUN and the engine take their operands from registers and from data memory
(30_encoding.md R68, R69; 20_memory.md R48). -/

namespace Sys2Proof.Machine

/-- The address of sample `i` of the signal at `base`: base + 4·i, without wrap-around (R48, R69). -/
def sampleAddr (base : Word) (i : Nat) : Nat := base.toNat + 4 * i

/-- The end of a region of LEN samples: base + 4·LEN, an exact integer (R48, R112). -/
def regionEnd (base len : Word) : Nat := base.toNat + 4 * len.toNat

/-- `base mod 4 ≠ 0` (R110, R111). -/
def misaligned (base : Word) : Bool := base.toNat % 4 != 0

/-- `base + 4·LEN > 2^32` (R112). -/
def outOfRange (base len : Word) : Bool := decide (addrLimit < regionEnd base len)

/-- The regions share a byte (R113). -/
def overlaps (src dst len : Word) : Bool :=
  decide (0 < len.toNat ∧ src.toNat < regionEnd dst len ∧ dst.toNat < regionEnd src len)

/-- Address `a` lies in the LEN samples at `base` (R58). -/
def inRegion (base len : Word) (a : Nat) : Bool := decide (base.toNat ≤ a ∧ a < regionEnd base len)

/-- The sample that address `a` of the region at `base` belongs to. -/
def sampleOf (base : Word) (a : Nat) : Nat := (a - base.toNat) / 4

/-- The engine's position (R40). -/
def State.index (s : State) : Nat := s.count.toNat

/-- The address the engine reads next (R69, R116). -/
def State.readAddr (s : State) : Nat := sampleAddr s.src s.index

/-- The address the engine writes next (R69, R116). -/
def State.writeAddr (s : State) : Nat := sampleAddr s.dst s.index

/-- Another master's writes have made output word `j` of the current run any value: it wrote that word, or one of the
two input words the output uses, x[j] and x[j-1] (R58, R134). -/
def State.outputRaced (s : State) (j : Nat) : Bool :=
  s.racedOut.contains j || s.racedIn.contains j || (decide (0 < j) && s.racedIn.contains (j - 1))

/-- The input word the engine's read of sample `i` returns: the word of the bytes in memory when the read is performed
(R47, R51, R116), whoever wrote them. -/
def State.inputWord (s : State) (i : Nat) : Word := s.mem.wordAt (sampleAddr s.src i)

/-- The output word the engine writes for sample `i`, having read `x` (R116, R130); any value if the sample was raced
(R58). -/
def State.outputWord (s : State) (i : Nat) (x : Word) : Word :=
  if s.outputRaced i then Config.freeWord .racedOutput s.freeCount i
  else fir i x s.prev s.coef

end Sys2Proof.Machine
end

