-- ==== Sys2Proof/Machine/Ops.lean ====
section
/-! DEFINITION. The named operations that the meanings share: a read's answer, a write that BUSY freezes, the end of a
command (what stands in the place of taking an exception, 60_exceptions.md R146), the commands, reset. -/

namespace Sys2Proof.Machine

/-- A read returns a 32-bit word to the host (R81). -/
def State.returnWord (s : State) (v : Word) : State := { s with readData := some v }

/-- A write of CMD, COEF, SRC, DST or LEN: dropped with OVR while BUSY, else `act` (R26, R97–R101). -/
def whenIdle (act : State → State) (s : State) : State := if s.busy then s.setOvr else act s

/-- `complete(code, info)` (R12): how a command ends, with the block's only record of an error (R138, R146). -/
def complete (code : BitVec 4) (info : Word) (s : State) : State :=
  { s with busy := false, done := true, errCode := code, errInfo := info }

/-- The end of a run: `complete`, and the model's own record of the run's races is dropped. -/
def endRun (code : BitVec 4) (info : Word) (s : State) : State :=
  complete code info { s with runMem := [], racedIn := [], racedOut := [] }

/-- `start()` (R115), keeping memory as it stands for the "old word" of R58. -/
def startRun (s : State) : State :=
  { s with done := false, errCode := 0, errInfo := 0, busy := true, runMem := s.mem, racedIn := [], racedOut := [] }

/-- NOP (R107): no effect. -/
def cmdNop (s : State) : State := s

/-- Issuing a RUN zeroes COUNT and PREV (R109, R33, R34). -/
def clearProgress (s : State) : State := { s with count := 0, prev := 0 }

/-- RUN (R109): the checks in their order (R110–R113, R144), then R114 or R115. -/
def cmdRun (s : State) : State :=
  let z := clearProgress s
  if misaligned s.src then complete 2 s.src z
  else if misaligned s.dst then complete 2 s.dst z
  else if outOfRange s.src s.len then complete 3 s.src z
  else if outOfRange s.dst s.len then complete 3 s.dst z
  else if overlaps s.src s.dst s.len then complete 4 s.dst z
  else if s.len = 0 then complete 0 0 z
  else startRun z

/-- ILLEGAL (R108). -/
def cmdIllegal (v : Word) (s : State) : State := complete 1 v s

/-- `Command(v)` (R106). -/
def command (v : Word) (s : State) : State :=
  if v = 0x00000000 then cmdNop s
  else if v = 0x00000001 then cmdRun s
  else cmdIllegal v s

/-- Every register at its reset value and the engine idle (R157, R44); memory and the platform are not the block's. -/
def resetRegs (s : State) : State :=
  { s with
    irqEn := false, busy := false, done := false, ovr := false, errCode := 0, coef := 0, src := 0, dst := 0, len := 0,
    count := 0, prev := 0, errInfo := 0, runMem := [], racedIn := [], racedOut := [] }

/-- A word of "any value" replaces the word at address `a`: one draw of a free value. -/
def State.clobber (s : State) (u : FreeUse) (a i : Nat) : State :=
  { s with mem := s.mem.setWord a (Config.freeWord u s.freeCount i) }

/-- The next free value is another one. -/
def State.tick (s : State) : State := { s with freeCount := s.freeCount + 1 }

end Sys2Proof.Machine
end

