-- ==== Sys2Proof/Machine/Reads.lean ====
section
/-! DEFINITION. The host's register reads (40_register_access.md R82–R93). A read changes nothing of the block (R52). -/

namespace Sys2Proof.Machine

/-- The result of an instruction or input: `Host.Outcome` at this machine's types. -/
abbrev Result := Host.Outcome State Fault Refusal

/-- RD_ID (R82). -/
def execRdId (s : State) : Result := .next (s.returnWord Config.idValue)

/-- RD_CTRL (R83). -/
def execRdCtrl (s : State) : Result := .next (s.returnWord s.ctrlWord)

/-- RD_STATUS (R84). -/
def execRdStatus (s : State) : Result := .next (s.returnWord s.statusWord)

/-- RD_CMD (R85). -/
def execRdCmd (s : State) : Result := .next (s.returnWord 0)

/-- RD_COEF (R86). -/
def execRdCoef (s : State) : Result := .next (s.returnWord s.coef)

/-- RD_SRC (R87). -/
def execRdSrc (s : State) : Result := .next (s.returnWord s.src)

/-- RD_DST (R88). -/
def execRdDst (s : State) : Result := .next (s.returnWord s.dst)

/-- RD_LEN (R89). -/
def execRdLen (s : State) : Result := .next (s.returnWord s.len)

/-- RD_COUNT (R90). -/
def execRdCount (s : State) : Result := .next (s.returnWord s.count)

/-- RD_PREV (R91). -/
def execRdPrev (s : State) : Result := .next (s.returnWord s.prev)

/-- RD_ERR_INFO (R92). -/
def execRdErrInfo (s : State) : Result := .next (s.returnWord s.errInfo)

/-- RD_RSVD at offset 0x2C (R93, R36). -/
def execRdRsvd (s : State) : Result := .next (s.returnWord 0)

/-- RD_RSVD at offsets 0x30 to 0x3C (R93, R36): every slot reads 0. -/
def execRdRsvdHi (_k : BitVec 2) (s : State) : Result := .next (s.returnWord 0)

end Sys2Proof.Machine
end

