-- ==== Sys2Proof/Machine/Commands.lean ====
section
/-! DEFINITION. The command words (41_commands.md R106–R115), each a host write of that word to CMD: dropped with OVR
while BUSY (R97, R72, R107). -/

namespace Sys2Proof.Machine

/-- NOP (R107). -/
def execNop (s : State) : Result := .next (whenIdle cmdNop s)

/-- RUN (R109). -/
def execRun (s : State) : Result := .next (whenIdle cmdRun s)

/-- ILLEGAL (R108). -/
def execIllegal (v : Word) (s : State) : Result := .next (whenIdle (cmdIllegal v) s)

end Sys2Proof.Machine
end

