-- ==== Sys2Proof/Machine/Writes.lean ====
section
/-! DEFINITION. The host's register writes (40_register_access.md R94–R105). -/

namespace Sys2Proof.Machine

/-- WR_ID (R94): no effect. -/
def execWrId (_d : Word) (s : State) : Result := .next s

/-- WR_CTRL (R95): IRQ_EN takes DATA[0], while BUSY too. -/
def execWrCtrl (d : Word) (s : State) : Result := .next { s with irqEn := d.getLsbD 0 }

/-- WR_STATUS (R96): W1C of DONE and OVR, while BUSY too. -/
def execWrStatus (d : Word) (s : State) : Result := .next (s.clearStatus d)

/-- WR_CMD (R97): DATA is a command word. -/
def execWrCmd (d : Word) (s : State) : Result := .next (whenIdle (command d) s)

/-- WR_COEF (R98). -/
def execWrCoef (d : Word) (s : State) : Result := .next (whenIdle (fun t => { t with coef := d }) s)

/-- WR_SRC (R99). -/
def execWrSrc (d : Word) (s : State) : Result := .next (whenIdle (fun t => { t with src := d }) s)

/-- WR_DST (R100). -/
def execWrDst (d : Word) (s : State) : Result := .next (whenIdle (fun t => { t with dst := d }) s)

/-- WR_LEN (R101). -/
def execWrLen (d : Word) (s : State) : Result := .next (whenIdle (fun t => { t with len := d }) s)

/-- WR_COUNT (R102): no effect. -/
def execWrCount (_d : Word) (s : State) : Result := .next s

/-- WR_PREV (R103): no effect. -/
def execWrPrev (_d : Word) (s : State) : Result := .next s

/-- WR_ERR_INFO (R104): no effect. -/
def execWrErrInfo (_d : Word) (s : State) : Result := .next s

/-- WR_RSVD at offset 0x2C (R105): no effect. -/
def execWrRsvd (_d : Word) (s : State) : Result := .next s

/-- WR_RSVD at offsets 0x30 to 0x3C (R105): no effect. -/
def execWrRsvdHi (_k : BitVec 2) (_d : Word) (s : State) : Result := .next s

end Sys2Proof.Machine
end

