-- ==== Sys2Proof/Machine/Dispatch.lean ====
section
/-! DEFINITION. The dispatch of the decoded instruction to its meaning: one arm per constructor of Instr. -/

namespace Sys2Proof.Machine

def exec (i : Instr) (s : State) : Host.Outcome State Fault Refusal :=
  match i with
  | .nop => Sys2Proof.Machine.execNop s
  | .run => Sys2Proof.Machine.execRun s
  | .illegal v => Sys2Proof.Machine.execIllegal v s
  | .rdId => Sys2Proof.Machine.execRdId s
  | .rdCtrl => Sys2Proof.Machine.execRdCtrl s
  | .rdStatus => Sys2Proof.Machine.execRdStatus s
  | .rdCmd => Sys2Proof.Machine.execRdCmd s
  | .rdCoef => Sys2Proof.Machine.execRdCoef s
  | .rdSrc => Sys2Proof.Machine.execRdSrc s
  | .rdDst => Sys2Proof.Machine.execRdDst s
  | .rdLen => Sys2Proof.Machine.execRdLen s
  | .rdCount => Sys2Proof.Machine.execRdCount s
  | .rdPrev => Sys2Proof.Machine.execRdPrev s
  | .rdErrInfo => Sys2Proof.Machine.execRdErrInfo s
  | .rdRsvd => Sys2Proof.Machine.execRdRsvd s
  | .rdRsvdHi k => Sys2Proof.Machine.execRdRsvdHi k s
  | .wrId d => Sys2Proof.Machine.execWrId d s
  | .wrCtrl d => Sys2Proof.Machine.execWrCtrl d s
  | .wrStatus d => Sys2Proof.Machine.execWrStatus d s
  | .wrCmd d => Sys2Proof.Machine.execWrCmd d s
  | .wrCoef d => Sys2Proof.Machine.execWrCoef d s
  | .wrSrc d => Sys2Proof.Machine.execWrSrc d s
  | .wrDst d => Sys2Proof.Machine.execWrDst d s
  | .wrLen d => Sys2Proof.Machine.execWrLen d s
  | .wrCount d => Sys2Proof.Machine.execWrCount d s
  | .wrPrev d => Sys2Proof.Machine.execWrPrev d s
  | .wrErrInfo d => Sys2Proof.Machine.execWrErrInfo d s
  | .wrRsvd d => Sys2Proof.Machine.execWrRsvd d s
  | .wrRsvdHi k d => Sys2Proof.Machine.execWrRsvdHi k d s

end Sys2Proof.Machine
end

