-- ==== Sys2Proof/Machine/Engine.lean ====
section
/-! DEFINITION. The engine step (41_commands.md R116–R119). -/

namespace Sys2Proof.Machine

/-- The word of an address that is reported in ERR_INFO. -/
def addrWord (a : Nat) : Word := BitVec.ofNat 32 a

/-- The read answered BusError (R117). -/
def readError (s : State) : State := endRun 5 (addrWord s.readAddr) s

/-- The write answered BusError (R118): the word at its address is any value (R142). -/
def writeError (s : State) : State :=
  endRun 6 (addrWord s.writeAddr) ((s.clobber .failedWrite s.writeAddr s.index).tick)

/-- Sample i = COUNT is done: `y` is written, PREV takes the word read and COUNT moves on (R116). A raced output has
drawn a free value. -/
def advance (s : State) (r : Word) : State :=
  let y := s.outputWord s.index r
  let t := { s with mem := s.mem.setWord s.writeAddr y, prev := r, count := s.count + 1 }
  if s.outputRaced s.index then t.tick else t

/-- One engine step (R116), enabled while BUSY = 1. An address past the port's space, which no reachable state has
(R112), stops the machine. DESIGN CHOICE (log 24): every address of the memory port is plain data memory; R41 and R52
leave to the platform whether the port reaches this block's window or a device, and what an access there does. -/
def engineStep (s : State) : Result :=
  if addrLimit < s.readAddr + 4 then .fault (.addressOutOfSpace s.readAddr)
  else if s.busError .read s.readAddr then .next (readError s)
  else if addrLimit < s.writeAddr + 4 then .fault (.addressOutOfSpace s.writeAddr)
  else if s.busError .write s.writeAddr then .next (writeError s)
  else
    let t := advance s (s.inputWord s.index)
    if t.count = s.len then .next (endRun 0 0 t) else .next t

end Sys2Proof.Machine
end

