-- ==== Sys2Proof/Machine/Platform.lean ====
section
/-! DEFINITION. What the platform does to the machine: reset (70_reset_and_hazards.md R157–R159) and accesses to data
memory by the host or another bus master (20_memory.md R47, R58), racing ones included. -/

namespace Sys2Proof.Machine

/-- The engine's write of the current sample can be in flight: a run is in progress and its read did not err (R159,
R116). -/
def State.writeInFlight (s : State) : Bool := s.busy && !s.busError .read s.readAddr

/-- `rst_n` is asserted (R157, R159). With a write in flight, the word it goes to is any value. -/
def assertReset (inFlight : Bool) (s : State) : State :=
  let t := if inFlight && s.writeInFlight then (s.clobber .resetWrite s.writeAddr s.index).tick else s
  { resetRegs t with inReset := true }

/-- `rst_n` is deasserted (R158). -/
def releaseReset (s : State) : State := { s with inReset := false }

/-- An access by another master to a byte of a running command's buffers is a race (R58, R164). -/
def State.races (s : State) (a : Nat) : Bool :=
  s.busy && (inRegion s.src s.len a || inRegion s.dst s.len a)

/-- A sample index joins a list without repeats. -/
def addIndex (k : Nat) (l : List Nat) : List Nat := if l.contains k then l else k :: l

/-- Output word `j`, if the run has written it already, becomes any value (R58). -/
def State.clobberDone (s : State) (j : Nat) : State :=
  if j < s.index then s.clobber .racedOutput (sampleAddr s.dst j) j else s

/-- One byte written by the host or another master (R47). During a run, a byte of input word k makes output words k and
k+1 any value, and a byte of an output word makes that word any value (R58). -/
def storeByte (a : Nat) (b : Byte) (s : State) : State :=
  if s.busy && inRegion s.src s.len a then
    let k := sampleOf s.src a
    let t := { s with mem := s.mem.set a b, racedIn := addIndex k s.racedIn }
    (t.clobberDone k).clobberDone (k + 1)
  else if s.busy && inRegion s.dst s.len a then
    let j := sampleOf s.dst a
    { s.clobber .racedOutput (sampleAddr s.dst j) j with racedOut := addIndex j s.racedOut }
  else { s with mem := s.mem.set a b }

/-- Bytes written at rising addresses. -/
def storeBytes (a : Nat) : List Byte → State → State
  | [], s => s
  | b :: bs, s => storeBytes (a + 1) bs (storeByte a b s)

/-- Whether one of the `n` bytes at `a` races. -/
def State.racesAny (s : State) (a n : Nat) : Bool := (List.range n).any fun k => s.races (a + k)

/-- A write of data memory through the platform, of any width (R47, R76 `mw`). DESIGN CHOICE: it never errs (log 22), and
every address is plain data memory, the register window's too (log 24). -/
def hostStore (a : Nat) (bytes : List Byte) (s : State) : Result :=
  if addrLimit < a + bytes.length then .fault (.addressOutOfSpace a)
  else
    let t := storeBytes a bytes s
    if s.racesAny a bytes.length then .next t.tick else .next t

/-- The word a run puts at output `j`, from its input words in memory: the "new word" of R58. -/
def State.newWord (s : State) (j : Nat) : Word :=
  if j < s.index then s.mem.wordAt (sampleAddr s.dst j)
  else
    fir j (s.mem.wordAt (sampleAddr s.src j)) (if j = 0 then 0 else s.mem.wordAt (sampleAddr s.src (j - 1))) s.coef

/-- The byte a read through the platform sees (R58): of a running command's output, the old word's or the new word's,
any value if the word is raced; of everything else, what memory holds. -/
def State.seenByte (s : State) (a : Nat) : Byte :=
  if s.busy && inRegion s.dst s.len a then
    let j := sampleOf s.dst a
    let lane := (a - s.dst.toNat) % 4
    if s.outputRaced j then byteLane (Config.freeWord .racedOutput s.freeCount j) lane
    else if Config.seesOld s.freeCount j then Memory.byteAt s.runMem a
    else byteLane (s.newWord j) lane
  else Memory.byteAt s.mem a

/-- A read of one word of data memory through the platform (R76 `mr`). DESIGN CHOICE: it never errs (log 22), and every
address is plain data memory, the register window's too (log 24). -/
def hostLoad (a : Nat) (s : State) : Result :=
  if addrLimit < a + 4 then .fault (.addressOutOfSpace a)
  else
    let t := s.returnWord (s.seenByte (a + 3) ++ s.seenByte (a + 2) ++ s.seenByte (a + 1) ++ s.seenByte a)
    if s.racesAny a 4 then .next t.tick else .next t

end Sys2Proof.Machine
end

