-- ==== Sys2Proof/Machine/HostPort.lean ====
section
/-! DEFINITION. The host's register port (40_register_access.md R81): which accesses have a meaning, and the decoding of
the others to one; and one input of the schedule. -/

namespace Sys2Proof.Machine

/-- The platform address of a host access: its offset from REG_BASE (R19). -/
def HostAccess.address (a : HostAccess) : Nat := Config.regBase.toNat + a.off

/-- The selector of an access inside the window (R65). -/
def HostAccess.selector (a : HostAccess) : Sel := selOf a.write (BitVec.ofNat 6 a.off)

/-- The accesses the model refuses before decoding: during reset (R158), by a second host (R154), not 32 bits wide or
outside the window (R50, R81). -/
def refusalBefore (a : HostAccess) (s : State) : Option Refusal :=
  if s.inReset then some .duringReset
  else if a.host ≠ 0 then some (.secondHost a.host)
  else if a.bytes ≠ 4 then some (.nonWordAccess a.bytes)
  else if 64 ≤ a.off then some (.outsideWindow a.off)
  else none

/-- A decode error as a refusal (R66). -/
def refusalOf : DecodeError → Refusal
  | .unalignedOffset sel => .unalignedOffset sel
  | .noRow sel => .noRow sel

/-- Decode and execute (R81). -/
def runPacket (p : Packet) (s : State) : Result :=
  match decode p with
  | .ok i => exec i s
  | .error e => .refused (refusalOf e)

/-- One access on the register port (R81). -/
def hostAccess (a : HostAccess) (s : State) : Result :=
  match refusalBefore a s with
  | some r => .refused r
  | none => runPacket (.bus a.selector a.data) s

/-- A command word written to CMD (R106); a host access too, so refused during reset (R158). -/
def hostCommand (v : Word) (s : State) : Result :=
  if s.inReset then .refused .duringReset else runPacket (.cmd v) s

/-- The engine's turn: a step if one is enabled (R116), else nothing (R156). -/
def engineTurn (s : State) : Result := if s.busy then engineStep s else .next s

/-- One input of the schedule, as one atomic step (R14). -/
def takeInput (x : Input) (s : State) : Result :=
  match x with
  | .access a => hostAccess a s
  | .command v => hostCommand v s
  | .engine => engineTurn s
  | .assertReset f => .next (assertReset f s)
  | .releaseReset => .next (releaseReset s)
  | .memWrite a bytes => hostStore a bytes s
  | .memRead a => hostLoad a s
  | .busErrors errs => .next { s with busErrs := errs }

/-- An instruction of the opcode table (its bits as `decodeTableWord` takes them) as the input that presents it: a CMD
row as a command word, a BUS row as a word access of the host. Bits that are no row's become an access the port refuses. -/
def tableInput (nbits w : Nat) : Input :=
  match tablePacket nbits w with
  | some (.cmd v) => .command v
  | some (.bus sel d) => .access ⟨0, 4, selWrite sel, (selOff sel).toNat, d⟩
  | none => .access ⟨0, 4, false, 64 + w, 0⟩

end Sys2Proof.Machine
end

