-- ==== Sys2Proof/Machine/Step.lean ====
section
/-! DEFINITION. The machine's step (00_scope.md R14): the next input of the schedule; when nothing is scheduled, the
engine's turn, which is the fairness of 70_reset_and_hazards.md R169. -/

namespace Sys2Proof.Machine

/-- One atomic step (R14). The block fetches no instructions (R40): what it decodes next is the schedule's first input. -/
def step (s : State) : Host.Outcome State Fault Refusal :=
  match s.inputs with
  | [] => engineTurn s
  | x :: rest => takeInput x { s with inputs := rest }

/-- The instruction of the opcode table whose bits are `w`, put first on the schedule of a block that is out of reset, so
that the next step decodes and runs it (log 1). -/
def State.withFetchWord (s : State) (nbits w : Nat) : State :=
  { s with inReset := false, inputs := tableInput nbits w :: s.inputs }

end Sys2Proof.Machine
end

