-- ==== Sys2Proof/Safety.lean ====
section
/-! DEFINITION. What claims are stated in: the invariant of every reachable state (10_state.md R39 and what the rules
around it imply), and a run of the engine alone. -/

namespace Sys2Proof.Machine

/-- The operands of a run passed the checks of R110 to R113. -/
abbrev State.OperandsChecked (s : State) : Prop :=
  s.src.toNat % 4 = 0 ∧ s.dst.toNat % 4 = 0 ∧ regionEnd s.src s.len ≤ addrLimit ∧ regionEnd s.dst s.len ≤ addrLimit ∧
  (regionEnd s.src s.len ≤ s.dst.toNat ∨ regionEnd s.dst s.len ≤ s.src.toNat)

/-- R39 for a run in progress: DONE = 0, COUNT < LEN, ERRCODE = 0; its operands passed the checks, and the races on
record are of samples of this run. -/
abbrev State.RunInv (s : State) : Prop :=
  s.done = false ∧ s.count.toNat < s.len.toNat ∧ s.errCode = 0 ∧ s.OperandsChecked ∧ s.inReset = false ∧
  (∀ k ∈ s.racedIn, k < s.len.toNat) ∧ (∀ k ∈ s.racedOut, k < s.len.toNat)

/-- An idle block keeps no record of a run's races. -/
abbrev State.IdleInv (s : State) : Prop := s.runMem = [] ∧ s.racedIn = [] ∧ s.racedOut = []

/-- The outcome registers agree (R138): only codes 0 to 6, and ERR_INFO is 0 after a success, a misaligned address after
code 2, an aligned one after codes 3 to 6, and no legal command word after code 1. -/
abbrev State.OutcomeInv (s : State) : Prop :=
  s.errCode.toNat ≤ 6 ∧ (s.errCode = 0 → s.errInfo = 0) ∧ (s.errCode = 1 → s.errInfo ≠ 0 ∧ s.errInfo ≠ 1) ∧
  (s.errCode = 2 → s.errInfo.toNat % 4 ≠ 0) ∧ (3 ≤ s.errCode.toNat → s.errInfo.toNat % 4 = 0)

/-- While `rst_n` is asserted the registers hold their reset values (R157, R44). -/
abbrev State.ResetInv (s : State) : Prop :=
  s.inReset = true →
    s.irqEn = false ∧ s.busy = false ∧ s.done = false ∧ s.ovr = false ∧ s.errCode = 0 ∧ s.coef = 0 ∧ s.src = 0 ∧
    s.dst = 0 ∧ s.len = 0 ∧ s.count = 0 ∧ s.prev = 0 ∧ s.errInfo = 0

/-- The invariant of the machine: memory canonical, R39, the outcome registers, PREV = 0 when COUNT = 0 (R34), reset. -/
abbrev State.Inv (s : State) : Prop :=
  Memory.wf s.mem ∧ Memory.wf s.runMem ∧ (s.busy = true → s.RunInv) ∧ (s.busy = false → s.IdleInv) ∧ s.OutcomeInv ∧
  (s.count = 0 → s.prev = 0) ∧ s.ResetInv

/-- A step of a safe run does not end in a fault (a refusal is the host's doing). -/
def Safe (r : Result) : Prop := ∀ f, r ≠ .fault f

/-- No access of the run in progress, or of the run that a RUN would start, answers BusError (R163's premise). -/
abbrev State.NoBusErrors (s : State) : Prop :=
  ∀ i < s.len.toNat, s.busError .read (sampleAddr s.src i) = false ∧ s.busError .write (sampleAddr s.dst i) = false

/-- `k` steps of the machine, stopping at the first fault or refusal. -/
def runSteps (k : Nat) (s : State) : Result := Sys2Proof.core.run k s

/-- The host writes RUN to CMD (offset 0x0C, R109), and then `rest` is scheduled; once that is empty the engine works
alone. -/
def State.issueRun (s : State) (rest : List Input) : State :=
  { s with inputs := .access ⟨0, 4, true, 0x0C, 1⟩ :: rest }

/-- Input word `j` of the signal at SRC, in the memory `m` (R48). -/
def inputAt (s : State) (m : Memory) (j : Nat) : Word := m.wordAt (s.src.toNat + 4 * j)

/-- Output word `j` of R134, from the input words in the memory `m`. -/
def outputAt (s : State) (m : Memory) (j : Nat) : Word :=
  fir j (inputAt s m j) (if j = 0 then 0 else inputAt s m (j - 1)) s.coef

/-- The instructions that BUSY freezes: the writes of CMD, COEF, SRC, DST and LEN (R26), command words included (R97). -/
def frozenWhileBusy : Instr → Bool
  | .nop => true
  | .run => true
  | .illegal _ => true
  | .wrCmd _ => true
  | .wrCoef _ => true
  | .wrSrc _ => true
  | .wrDst _ => true
  | .wrLen _ => true
  | .rdId => false
  | .rdCtrl => false
  | .rdStatus => false
  | .rdCmd => false
  | .rdCoef => false
  | .rdSrc => false
  | .rdDst => false
  | .rdLen => false
  | .rdCount => false
  | .rdPrev => false
  | .rdErrInfo => false
  | .rdRsvd => false
  | .rdRsvdHi _ => false
  | .wrId _ => false
  | .wrCtrl _ => false
  | .wrStatus _ => false
  | .wrCount _ => false
  | .wrPrev _ => false
  | .wrErrInfo _ => false
  | .wrRsvd _ => false
  | .wrRsvdHi _ _ => false

/-- An input that keeps the host's obligations towards the run of `s` (R163–R165): no reset, and no write to a byte of
its buffers. -/
def keepsRules (s : State) : Input → Prop
  | .memWrite a bytes =>
    ∀ k < bytes.length, inRegion s.src s.len (a + k) = false ∧ inRegion s.dst s.len (a + k) = false
  | .assertReset _ => False
  | .access _ => True
  | .command _ => True
  | .engine => True
  | .releaseReset => True
  | .memRead _ => True
  | .busErrors _ => True

/-- A write of `n` bytes at `a` covers a byte of sample `j` of the signal at `base` (R48). -/
def coversSample (a n : Nat) (base : Word) (j : Nat) : Prop :=
  ∃ c, (a ≤ c ∧ c < a + n) ∧ (base.toNat + 4 * j ≤ c ∧ c < base.toNat + 4 * (j + 1))

/-- R58: a write of `n` bytes at `a` during a run makes output word `j` any value: it covers a byte of that word, or of
one of the two input words it uses. -/
def State.writeAffects (s : State) (a n j : Nat) : Prop :=
  (j < s.len.toNat ∧ coversSample a n s.dst j) ∨ (j < s.len.toNat ∧ coversSample a n s.src j) ∨
  (0 < j ∧ j - 1 < s.len.toNat ∧ coversSample a n s.src (j - 1))

/-- The input is a write of data memory that covers address `a`. -/
def coversByte (a : Nat) : Input → Prop
  | .memWrite b bytes => b ≤ a ∧ a < b + bytes.length
  | .assertReset _ => False
  | .access _ => False
  | .command _ => False
  | .engine => False
  | .releaseReset => False
  | .memRead _ => False
  | .busErrors _ => False

end Sys2Proof.Machine
end

