-- ==== Sys2Proof/Certificates/Slice0/Obligations.lean ====
section
/-! DEFINITION. The statements for the provers, from the numbered rules of spec/. A statement about a register read names
`readData`, the model's own field for the word a read returns (log 13). A statement about data memory takes every
address as plain memory, the register window's too, which is the model's choice (log 24). -/

open Sys2Proof Sys2Proof.Machine

/-! ## Encoding and decoding -/

/-- Every well-formed instruction, with every operand, is what its own packet decodes to (R65, R67, R71). -/
def Obligations.DecodeOfEncode : Prop :=
  ∀ i : Instr, i.wellFormed = true → decode (encode i) = .ok i

/-- Each packet has one meaning: what a packet decodes to is well formed and encodes back to it, a read's data word
apart (R65, R71, R80). -/
def Obligations.EncodeOfDecode : Prop :=
  (∀ (sel : Sel) (d : Word) (i : Instr), decode (.bus sel d) = .ok i →
    i.wellFormed = true ∧ encode i = .bus sel (if selWrite sel then d else 0)) ∧
  (∀ v : Word, ∃ i, decode (.cmd v) = .ok i ∧ i.wellFormed = true ∧ encode i = .cmd v)

/-- A selector decodes exactly when its offset is a multiple of 4 (R66, R71). -/
def Obligations.AlignedSelectorsDecode : Prop :=
  ∀ (sel : Sel) (d : Word),
    ((selOff sel).toNat % 4 ≠ 0 → decode (.bus sel d) = .error (.unalignedOffset sel)) ∧
    ((selOff sel).toNat % 4 = 0 → ∃ i, decode (.bus sel d) = .ok i)

/-- R67: OPCODE and RSVD are the fields of the command word; 0x00 is NOP, 0x01 is RUN, a reserved opcode or any 1 bit in
RSVD makes the word illegal. -/
def Obligations.CommandWordFields : Prop :=
  ∀ v : Word,
    v = cmdRsvd v ++ cmdOpcode v ∧
    (cmdRsvd v = 0 → cmdOpcode v = 0x00 → decode (.cmd v) = .ok .nop) ∧
    (cmdRsvd v = 0 → cmdOpcode v = 0x01 → decode (.cmd v) = .ok .run) ∧
    (cmdRsvd v = 0 → 0x02 ≤ (cmdOpcode v).toNat → decode (.cmd v) = .ok (.illegal v)) ∧
    (cmdRsvd v ≠ 0 → decode (.cmd v) = .ok (.illegal v))

/-- Words written out from R65, R67 and R71 decode to the instructions they stand for. -/
def Obligations.SpecWordsDecode : Prop :=
  decode (.cmd 0x00000000) = .ok .nop ∧ decode (.cmd 0x00000001) = .ok .run ∧
  decode (.cmd 0x00000101) = .ok (.illegal 0x00000101) ∧
  decode (.bus 0b0000000 0) = .ok .rdId ∧ decode (.bus 0b0001000 0) = .ok .rdStatus ∧
  decode (.bus 0b0111100 0) = .ok (.rdRsvdHi 3) ∧
  decode (.bus 0b1010000 0x3F7851EC) = .ok (.wrCoef 0x3F7851EC) ∧
  decode (.bus 0b1001100 0x00000001) = .ok (.wrCmd 0x00000001) ∧
  decode (.bus 0b1110100 5) = .ok (.wrRsvdHi 1 5) ∧
  decode (.bus 0b0000010 0) = .error (.unalignedOffset 0b0000010)

/-! ## The host's port and the step -/

/-- A step on a host access that the port accepts, and on a command word, is `exec` of the decoded instruction at the
state that is left when the input is taken off the schedule (R81, R14). -/
def Obligations.StepRunsDecodedInstr : Prop :=
  (∀ (s : State) (a : HostAccess) (rest : List Input) (i : Instr),
    s.inputs = .access a :: rest → s.inReset = false → a.host = 0 → a.bytes = 4 → a.off < 64 →
    decode (.bus (selOf a.write (BitVec.ofNat 6 a.off)) a.data) = .ok i →
    step s = exec i { s with inputs := rest }) ∧
  (∀ (s : State) (v : Word) (rest : List Input) (i : Instr),
    s.inputs = .command v :: rest → s.inReset = false → decode (.cmd v) = .ok i →
    step s = exec i { s with inputs := rest })

/-- The next step from `withFetchWord` runs the instruction that the decoder reads from the table's word (log 1). -/
def Obligations.FetchWordRuns : Prop :=
  ∀ (s : State) (nbits w : Nat) (i : Instr), decodeTableWord nbits w = some i →
    step (s.withFetchWord nbits w) = exec i { s with inReset := false }

/-- R50: a host access that is not a 32-bit access at a multiple of 4 inside the window is refused. -/
def Obligations.BadAccessesRefused : Prop :=
  ∀ (s : State) (a : HostAccess) (rest : List Input),
    s.inputs = .access a :: rest → s.inReset = false → a.host = 0 →
    (a.bytes ≠ 4 → step s = .refused (.nonWordAccess a.bytes)) ∧
    (a.bytes = 4 → 64 ≤ a.off → step s = .refused (.outsideWindow a.off)) ∧
    (a.bytes = 4 → a.off < 64 → a.off % 4 ≠ 0 →
      step s = .refused (.unalignedOffset (selOf a.write (BitVec.ofNat 6 a.off))))

/-- R158, R154: a host access while `rst_n` is asserted is refused, and so is a second host's. -/
def Obligations.ResetAndSecondHostRefused : Prop :=
  (∀ (s : State) (a : HostAccess) (rest : List Input), s.inputs = .access a :: rest → s.inReset = true →
    step s = .refused .duringReset) ∧
  (∀ (s : State) (v : Word) (rest : List Input), s.inputs = .command v :: rest → s.inReset = true →
    step s = .refused .duringReset) ∧
  (∀ (s : State) (a : HostAccess) (rest : List Input), s.inputs = .access a :: rest → s.inReset = false → a.host ≠ 0 →
    step s = .refused (.secondHost a.host))

/-- R19: the sixteen slots of the window, each read through the port. -/
def Obligations.WindowReadsItsSlots : Prop :=
  ∀ (s : State) (off : Nat) (d : Word), off < 64 → off % 4 = 0 → s.inReset = false →
    hostAccess ⟨0, 4, false, off, d⟩ s = .next { s with readData :=
      [0x50454D01, s.ctrlWord, s.statusWord, 0, s.coef, s.src, s.dst, s.len, s.count, s.prev, s.errInfo, 0, 0, 0, 0,
        0][off / 4]? }

/-! ## Register reads -/

/-- R82, R85, R93: RD_ID, RD_CMD and RD_RSVD with their selectors: they return constants and change nothing. -/
def Obligations.ConstantReads : Prop :=
  ∀ (s : State) (d : Word),
    (decode (.bus 0x00 d) = .ok .rdId ∧ exec .rdId s = .next { s with readData := some 0x50454D01 }) ∧
    (decode (.bus 0x0C d) = .ok .rdCmd ∧ exec .rdCmd s = .next { s with readData := some 0x00000000 }) ∧
    (decode (.bus 0x2C d) = .ok .rdRsvd ∧ exec .rdRsvd s = .next { s with readData := some 0x00000000 }) ∧
    ∀ k : BitVec 2, decode (.bus (0x30 + 4 * k.setWidth 7) d) = .ok (.rdRsvdHi k) ∧
      exec (.rdRsvdHi k) s = .next { s with readData := some 0x00000000 }

/-- R83, R84: RD_CTRL returns IRQ_EN zero-extended, RD_STATUS the four fields with zeros between, and nothing changes. -/
def Obligations.ControlAndStatusReads : Prop :=
  ∀ (s : State) (d : Word),
    decode (.bus 0x04 d) = .ok .rdCtrl ∧ decode (.bus 0x08 d) = .ok .rdStatus ∧
    exec .rdCtrl s = .next { s with readData := some (if s.irqEn then 1 else 0) } ∧
    ∃ w : Word, exec .rdStatus s = .next { s with readData := some w } ∧
      w.getLsbD 0 = s.busy ∧ w.getLsbD 1 = s.done ∧ w.getLsbD 2 = s.ovr ∧ w.extractLsb' 3 5 = 0 ∧
      w.extractLsb' 8 4 = s.errCode ∧ w.extractLsb' 12 20 = 0

/-- R86 to R92: the seven 32-bit registers, with their selectors, read as they stand, and nothing changes. -/
def Obligations.DataRegisterReads : Prop :=
  ∀ (s : State) (d : Word),
    (decode (.bus 0x10 d) = .ok .rdCoef ∧ exec .rdCoef s = .next { s with readData := some s.coef }) ∧
    (decode (.bus 0x14 d) = .ok .rdSrc ∧ exec .rdSrc s = .next { s with readData := some s.src }) ∧
    (decode (.bus 0x18 d) = .ok .rdDst ∧ exec .rdDst s = .next { s with readData := some s.dst }) ∧
    (decode (.bus 0x1C d) = .ok .rdLen ∧ exec .rdLen s = .next { s with readData := some s.len }) ∧
    (decode (.bus 0x20 d) = .ok .rdCount ∧ exec .rdCount s = .next { s with readData := some s.count }) ∧
    (decode (.bus 0x24 d) = .ok .rdPrev ∧ exec .rdPrev s = .next { s with readData := some s.prev }) ∧
    (decode (.bus 0x28 d) = .ok .rdErrInfo ∧ exec .rdErrInfo s = .next { s with readData := some s.errInfo })

/-! ## Register writes -/

/-- R94, R102 to R105: writes of read-only registers and reserved slots, with their selectors, change nothing, while BUSY
too. -/
def Obligations.ReadOnlyWritesDoNothing : Prop :=
  ∀ (s : State) (d : Word),
    (decode (.bus 0x40 d) = .ok (.wrId d) ∧ exec (.wrId d) s = .next s) ∧
    (decode (.bus 0x60 d) = .ok (.wrCount d) ∧ exec (.wrCount d) s = .next s) ∧
    (decode (.bus 0x64 d) = .ok (.wrPrev d) ∧ exec (.wrPrev d) s = .next s) ∧
    (decode (.bus 0x68 d) = .ok (.wrErrInfo d) ∧ exec (.wrErrInfo d) s = .next s) ∧
    (decode (.bus 0x6C d) = .ok (.wrRsvd d) ∧ exec (.wrRsvd d) s = .next s) ∧
    ∀ k : BitVec 2, decode (.bus (0x70 + 4 * k.setWidth 7) d) = .ok (.wrRsvdHi k d) ∧
      exec (.wrRsvdHi k d) s = .next s

/-- R95: IRQ_EN takes DATA[0], in every state, and `irq` follows at once. -/
def Obligations.CtrlWrite : Prop :=
  ∀ (s : State) (d : Word), decode (.bus 0x44 d) = .ok (.wrCtrl d) ∧
    ∃ t, exec (.wrCtrl d) s = .next t ∧ t = { s with irqEn := d.getLsbD 0 } ∧ t.irq = (d.getLsbD 0 && s.done)

/-- R96: bit 1 clears DONE, bit 2 clears OVR, a 0 changes nothing; every other bit is ignored. -/
def Obligations.StatusWriteClears : Prop :=
  ∀ (s : State) (d : Word), decode (.bus 0x48 d) = .ok (.wrStatus d) ∧
    exec (.wrStatus d) s = .next
      { s with done := if d.getLsbD 1 then false else s.done, ovr := if d.getLsbD 2 then false else s.ovr }

/-- R98 to R101: COEF, SRC, DST and LEN take DATA when idle; while BUSY the write is dropped and sets OVR. -/
def Obligations.OperandWrites : Prop :=
  ∀ (s : State) (d : Word),
    (decode (.bus 0x50 d) = .ok (.wrCoef d) ∧ decode (.bus 0x54 d) = .ok (.wrSrc d) ∧
      decode (.bus 0x58 d) = .ok (.wrDst d) ∧ decode (.bus 0x5C d) = .ok (.wrLen d)) ∧
    (s.busy = false →
      exec (.wrCoef d) s = .next { s with coef := d } ∧ exec (.wrSrc d) s = .next { s with src := d } ∧
      exec (.wrDst d) s = .next { s with dst := d } ∧ exec (.wrLen d) s = .next { s with len := d }) ∧
    (s.busy = true →
      exec (.wrCoef d) s = .next { s with ovr := true } ∧ exec (.wrSrc d) s = .next { s with ovr := true } ∧
      exec (.wrDst d) s = .next { s with ovr := true } ∧ exec (.wrLen d) s = .next { s with ovr := true })

/-- R97, R106: a write of CMD is dropped with OVR while BUSY, whatever its data word is; when idle it performs the command
of its data word: NOP, RUN, or the end of an illegal word with code 1. -/
def Obligations.CmdWrite : Prop :=
  ∀ (s : State) (v : Word),
    decode (.bus 0x4C v) = .ok (.wrCmd v) ∧
    (s.busy = true → exec (.wrCmd v) s = .next { s with ovr := true }) ∧
    (s.busy = false →
      exec (.wrCmd 0x00000000) s = .next s ∧ exec (.wrCmd 0x00000001) s = exec .run s ∧
      (v ≠ 0x00000000 → v ≠ 0x00000001 →
        exec (.wrCmd v) s = .next { s with done := true, errCode := 1, errInfo := v }))

/-! ## Commands -/

/-- R107: NOP changes nothing; while BUSY it is dropped and sets OVR. -/
def Obligations.NopCommand : Prop :=
  ∀ s : State, decode (.cmd 0x00000000) = .ok .nop ∧
    (s.busy = false → exec .nop s = .next s) ∧ (s.busy = true → exec .nop s = .next { s with ovr := true })

/-- R108: every other word is illegal; it ends with code 1 and itself in ERR_INFO, everything else unchanged (BUSY stays
0). While BUSY it is dropped and sets OVR (R72). -/
def Obligations.IllegalCommand : Prop :=
  ∀ (s : State) (v : Word), v ≠ 0x00000000 → v ≠ 0x00000001 →
    decode (.cmd v) = .ok (.illegal v) ∧
    (s.busy = false → exec (.illegal v) s = .next { s with done := true, errCode := 1, errInfo := v }) ∧
    (s.busy = true → exec (.illegal v) s = .next { s with ovr := true })

/-- R109: the command RUN, dropped with OVR while BUSY (R72), else always answers a next state with COUNT = PREV = 0; the
operand registers, memory and every other register but the outcome are left alone whichever branch it takes. -/
def Obligations.RunCommandFrame : Prop :=
  ∀ s : State,
    (s.busy = true → exec .run s = .next { s with ovr := true }) ∧
    (s.busy = false → ∃ t, exec .run s = .next t ∧
      t = { s with
        count := 0, prev := 0, busy := t.busy, done := !t.busy, errCode := t.errCode, errInfo := t.errInfo,
        runMem := t.runMem, racedIn := t.racedIn, racedOut := t.racedOut } ∧
      (t.busy = true → t.errCode = 0 ∧ t.errInfo = 0 ∧ s.len ≠ 0))

/-- R110, R111: a misaligned SRC, else a misaligned DST, ends the RUN with code 2 and that address, whatever LEN is. -/
def Obligations.RunChecksAlignment : Prop :=
  ∀ s : State, s.busy = false →
    (s.src.toNat % 4 ≠ 0 → exec .run s = .next
      { s with count := 0, prev := 0, done := true, errCode := 2, errInfo := s.src }) ∧
    (s.src.toNat % 4 = 0 → s.dst.toNat % 4 ≠ 0 → exec .run s = .next
      { s with count := 0, prev := 0, done := true, errCode := 2, errInfo := s.dst })

/-- R112: of two aligned regions, the first that runs past 2^32 (SRC first) ends the RUN with code 3 and its base. -/
def Obligations.RunChecksRange : Prop :=
  ∀ s : State, s.busy = false → s.src.toNat % 4 = 0 → s.dst.toNat % 4 = 0 →
    (s.src.toNat + 4 * s.len.toNat > 2 ^ 32 → exec .run s = .next
      { s with count := 0, prev := 0, done := true, errCode := 3, errInfo := s.src }) ∧
    (s.src.toNat + 4 * s.len.toNat ≤ 2 ^ 32 → s.dst.toNat + 4 * s.len.toNat > 2 ^ 32 → exec .run s = .next
      { s with count := 0, prev := 0, done := true, errCode := 3, errInfo := s.dst })

/-- R113: of two aligned regions in range, a shared byte ends the RUN with code 4 and DST. -/
def Obligations.RunChecksOverlap : Prop :=
  ∀ s : State, s.busy = false → s.src.toNat % 4 = 0 → s.dst.toNat % 4 = 0 →
    s.src.toNat + 4 * s.len.toNat ≤ 2 ^ 32 → s.dst.toNat + 4 * s.len.toNat ≤ 2 ^ 32 →
    (∃ a, (s.src.toNat ≤ a ∧ a < s.src.toNat + 4 * s.len.toNat) ∧
      (s.dst.toNat ≤ a ∧ a < s.dst.toNat + 4 * s.len.toNat)) →
    exec .run s = .next { s with count := 0, prev := 0, done := true, errCode := 4, errInfo := s.dst }

/-- R114: with aligned SRC and DST, an empty RUN completes at once with code 0, and BUSY stays 0. -/
def Obligations.EmptyRunCompletes : Prop :=
  ∀ s : State, s.busy = false → s.src.toNat % 4 = 0 → s.dst.toNat % 4 = 0 → s.len = 0 →
    exec .run s = .next { s with count := 0, prev := 0, done := true, errCode := 0, errInfo := 0 }

/-- R115: with every check passed and LEN > 0 the run starts, `irq` low. Of the model's own fields runMem, racedIn and
racedOut (log 11, 12) nothing is said. -/
def Obligations.RunStarts : Prop :=
  ∀ s : State, s.busy = false → s.src.toNat % 4 = 0 → s.dst.toNat % 4 = 0 →
    s.src.toNat + 4 * s.len.toNat ≤ 2 ^ 32 → s.dst.toNat + 4 * s.len.toNat ≤ 2 ^ 32 → 0 < s.len.toNat →
    (∀ a, (s.src.toNat ≤ a ∧ a < s.src.toNat + 4 * s.len.toNat) →
      ¬ (s.dst.toNat ≤ a ∧ a < s.dst.toNat + 4 * s.len.toNat)) →
    ∃ t, exec .run s = .next t ∧ t.irq = false ∧
      t = { s with count := 0, prev := 0, done := false, errCode := 0, errInfo := 0, busy := true,
                   runMem := t.runMem, racedIn := t.racedIn, racedOut := t.racedOut }

/-- R12, R146: how every command ends; nothing but BUSY, DONE, ERRCODE and ERR_INFO changes. -/
def Obligations.CompleteRecordsOutcome : Prop :=
  ∀ (s : State) (code : BitVec 4) (info : Word),
    complete code info s = { s with busy := false, done := true, errCode := code, errInfo := info }

/-- R141 and R52: no instruction touches data memory, its BusError map or the schedule, and each answers a next state. -/
def Obligations.InstructionsTouchNoMemory : Prop :=
  ∀ (i : Instr) (s : State), ∃ t, exec i s = .next t ∧ t.mem = s.mem ∧ t.busErrs = s.busErrs ∧
    t.inputs = s.inputs ∧ t.inReset = s.inReset ∧ t.freeCount = s.freeCount

/-! ## Whole-machine rules about the flags and the operands -/

/-- R38: no step of a run in progress changes COEF, SRC, DST or LEN, reset apart; and a host access, a command among
them, changes only OVR, DONE, IRQ_EN and the word read: the run does not see it (R97, R121). -/
def Obligations.BusyFreezesTheRun : Prop :=
  (∀ s t : State, s.busy = true → step s = .next t → (∀ f, s.inputs.head? ≠ some (.assertReset f)) →
    t.coef = s.coef ∧ t.src = s.src ∧ t.dst = s.dst ∧ t.len = s.len) ∧
  (∀ (i : Instr) (s t : State), s.busy = true → exec i s = .next t →
    t = { s with ovr := t.ovr, done := t.done, irqEn := t.irqEn, readData := t.readData })

/-- R26: an instruction sets OVR when it is a frozen write while BUSY, and no other step sets it; only a write of STATUS
with bit 2 set and reset clear it. -/
def Obligations.OvrWriters : Prop :=
  (∀ (i : Instr) (s t : State), exec i s = .next t →
    (s.busy = true → frozenWhileBusy i = true → t.ovr = true) ∧
    (s.ovr = false → t.ovr = true → s.busy = true ∧ frozenWhileBusy i = true)) ∧
  (∀ s t : State, step s = .next t →
    (s.ovr = false → t.ovr = true → s.busy = true ∧ ((∃ v, s.inputs.head? = some (.command v)) ∨
      ∃ a : HostAccess, s.inputs.head? = some (.access a) ∧ a.write = true)) ∧
    (s.ovr = true → t.ovr = false → (∃ f, s.inputs.head? = some (.assertReset f)) ∨
      ∃ a : HostAccess, s.inputs.head? = some (.access a) ∧ a.write = true ∧ a.off = 0x08 ∧
        a.data.getLsbD 2 = true)) ∧
  (∀ (f : Bool) (s : State), (assertReset f s).ovr = false)

/-- R24: BUSY rises only at the command RUN with LEN > 0, and falls only at a completion or a reset. -/
def Obligations.BusyWriters : Prop :=
  ∀ s t : State, step s = .next t →
    (s.busy = false → t.busy = true → 0 < s.len.toNat ∧ t.count = 0 ∧ t.prev = 0 ∧
      (s.inputs.head? = some (.command 1) ∨
        ∃ a : HostAccess, s.inputs.head? = some (.access a) ∧ a.write = true ∧ a.off = 0x0C ∧ a.data = 1)) ∧
    (s.busy = true → t.busy = false → t.done = true ∨ t.inReset = true)

/-- R172: only a run start, a W1C of STATUS bit 1 and reset clear DONE. -/
def Obligations.DoneClearers : Prop :=
  ∀ s t : State, step s = .next t → s.done = true → t.done = false →
    t.busy = true ∨ (∃ f, s.inputs.head? = some (.assertReset f)) ∨
    ∃ a : HostAccess, s.inputs.head? = some (.access a) ∧ a.write = true ∧ a.off = 0x08 ∧ a.data.getLsbD 1 = true

/-- R137: `irq` rises only as DONE is set with IRQ_EN = 1 or as the host sets IRQ_EN under DONE, and falls only at a run
start, a write of CTRL or of STATUS, and reset. -/
def Obligations.IrqEdges : Prop :=
  ∀ s t : State, step s = .next t →
    (s.irq = false → t.irq = true → t.irqEn = true ∧ t.done = true ∧ (s.done = false ∨
      ∃ a : HostAccess, s.inputs.head? = some (.access a) ∧ a.write = true ∧ a.off = 0x04 ∧ a.data.getLsbD 0 = true)) ∧
    (s.irq = true → t.irq = false → t.busy = true ∨ (∃ f, s.inputs.head? = some (.assertReset f)) ∨
      ∃ a : HostAccess, s.inputs.head? = some (.access a) ∧ a.write = true ∧
        ((a.off = 0x04 ∧ a.data.getLsbD 0 = false) ∨ (a.off = 0x08 ∧ a.data.getLsbD 1 = true)))

/-- R40: within a run COUNT moves by exactly 1 at a successful engine step and never back; it does not wrap. -/
def Obligations.CountAdvancesByOne : Prop :=
  ∀ s t : State, s.Inv → step s = .next t → s.busy = true → t.busy = true →
    t.count.toNat = s.count.toNat ∨ (t.count.toNat = s.count.toNat + 1 ∧ t.count.toNat < t.len.toNat)

/-! ## Data memory -/

/-- R45: a word is stored least significant byte first and read back the same way; every other byte stays. -/
def Obligations.WordsAreLittleEndian : Prop :=
  ∀ (m : Memory) (a : Nat) (v : Word),
    (m.setWord a v).byteAt a = v.extractLsb' 0 8 ∧ (m.setWord a v).byteAt (a + 1) = v.extractLsb' 8 8 ∧
    (m.setWord a v).byteAt (a + 2) = v.extractLsb' 16 8 ∧ (m.setWord a v).byteAt (a + 3) = v.extractLsb' 24 8 ∧
    (∀ b, b < a ∨ a + 4 ≤ b → (m.setWord a v).byteAt b = m.byteAt b) ∧
    m.wordAt a = m.byteAt (a + 3) ++ m.byteAt (a + 2) ++ m.byteAt (a + 1) ++ m.byteAt a

/-- The host's memory writes of any width, when no run is in progress: each byte lands (R47), and nothing else changes.
That such a write never errs, whatever BusErrors the engine sees there, and that every address is plain data memory, is
the model's choice (log 22, log 24). -/
def Obligations.HostStoreWhenIdle : Prop :=
  ∀ (s : State) (a : Nat) (bytes : List Byte), s.busy = false → a + bytes.length ≤ 2 ^ 32 →
    ∃ t, hostStore a bytes s = .next t ∧ t = { s with mem := t.mem } ∧
      (∀ (k : Nat) (h : k < bytes.length), t.mem.byteAt (a + k) = bytes[k]) ∧
      (∀ b, b < a ∨ a + bytes.length ≤ b → t.mem.byteAt b = s.mem.byteAt b)

/-- R58: during a run a read of an output word sees the word before the run or the word the run puts there, unless the
word is raced (any value); a read of an input word sees what memory holds. What the two words are is the model's choice
(log 11): the one before the run is that of memory when the run started, which a run keeps on record; the one the run
puts there is in memory for a sample done, and fir of the input words in memory for the others. -/
def Obligations.RacingReads : Prop :=
  (∀ (i : Instr) (s t : State), s.busy = false → exec i s = .next t → t.busy = true → t.runMem = s.mem) ∧
  (∀ s t : State, step s = .next t → s.busy = true → t.busy = true → t.runMem = s.runMem) ∧
  (∀ (s : State) (j : Nat), s.Inv → s.busy = true → j < s.len.toNat →
    (∃ t w, hostLoad (s.dst.toNat + 4 * j) s = .next t ∧ t.readData = some w ∧ t.mem = s.mem ∧
      (s.outputRaced j = true ∨ w = s.runMem.wordAt (s.dst.toNat + 4 * j) ∨
        w = if j < s.count.toNat then s.mem.wordAt (s.dst.toNat + 4 * j)
            else fir j (s.mem.wordAt (s.src.toNat + 4 * j))
              (if j = 0 then 0 else s.mem.wordAt (s.src.toNat + 4 * (j - 1))) s.coef)) ∧
    (∃ t, hostLoad (s.src.toNat + 4 * j) s = .next t ∧ t.readData = some (s.mem.wordAt (s.src.toNat + 4 * j)) ∧
      t.mem = s.mem))

/-- R58: a write of any width during a run changes no register. It makes raced (any value at the end of the run) the
output words it covers and those whose input words it covers, k and k+1 for input word k, and no other. Every byte of it
outside DST lands; every other byte of memory stays but those of output words it covers and of raced ones the run has
written. The record of races, and that the write never errs, are the model's choice (log 12, log 22). -/
def Obligations.RacingWrites : Prop :=
  ∀ (s : State) (a : Nat) (bytes : List Byte), s.Inv → s.busy = true → a + bytes.length ≤ 2 ^ 32 →
    ∃ t, hostStore a bytes s = .next t ∧
      t = { s with mem := t.mem, racedIn := t.racedIn, racedOut := t.racedOut, freeCount := t.freeCount } ∧
      (∀ j, t.outputRaced j = true ↔ s.outputRaced j = true ∨ s.writeAffects a bytes.length j) ∧
      (∀ (k : Nat) (h : k < bytes.length),
        (a + k < s.dst.toNat ∨ s.dst.toNat + 4 * s.len.toNat ≤ a + k) → t.mem.byteAt (a + k) = bytes[k]) ∧
      (∀ c, (c < a ∨ a + bytes.length ≤ c) →
        (∀ j < s.len.toNat, s.dst.toNat + 4 * j ≤ c → c < s.dst.toNat + 4 * (j + 1) →
          ¬ coversSample a bytes.length s.dst j ∧ ¬ (j < s.count.toNat ∧ s.writeAffects a bytes.length j)) →
        t.mem.byteAt c = s.mem.byteAt c)

/-! ## The engine -/

/-- R116, R119, R47, R51: a step that no BusError stops reads x, the word of the bytes in memory at SRC + 4·i, raced or
not; it writes one word at DST + 4·i, which is fir(i, x, PREV, COEF) unless that output is raced (any value, R58), moves
PREV to x and COUNT on, and completes the run with code 0 at the last sample. -/
def Obligations.EngineStepAdvances : Prop :=
  ∀ s : State, s.Inv → s.busy = true →
    s.busError .read (s.src.toNat + 4 * s.count.toNat) = false →
    s.busError .write (s.dst.toNat + 4 * s.count.toNat) = false →
    ∃ (x y : Word) (u t : State), x = s.mem.wordAt (s.src.toNat + 4 * s.count.toNat) ∧
      (s.outputRaced s.count.toNat = false →
        y = fir s.count.toNat x s.prev s.coef ∧ u.freeCount = s.freeCount) ∧
      u = { s with
        mem := s.mem.setWord (s.dst.toNat + 4 * s.count.toNat) y, prev := x, count := s.count + 1,
        freeCount := u.freeCount } ∧
      engineStep s = .next t ∧
      (s.count.toNat + 1 ≠ s.len.toNat → t = u) ∧
      (s.count.toNat + 1 = s.len.toNat → t =
        { u with
          busy := false, done := true, errCode := 0, errInfo := 0,
          runMem := t.runMem, racedIn := t.racedIn, racedOut := t.racedOut })

/-- R116, R142: a BusError on the read ends the run with code 5 and the read's address, and changes nothing else: no
write is made, COUNT and PREV stay. One on the write ends it with code 6 and the write's address; the word there is any
value (nothing is said of it), every other byte, COUNT and PREV stay. -/
def Obligations.BusErrorEndsRun : Prop :=
  ∀ s : State, s.Inv → s.busy = true →
    (s.busError .read (s.src.toNat + 4 * s.count.toNat) = true →
      ∃ t, engineStep s = .next t ∧
        t = { s with
              busy := false, done := true, errCode := 5, errInfo := BitVec.ofNat 32 (s.src.toNat + 4 * s.count.toNat),
              runMem := t.runMem, racedIn := t.racedIn, racedOut := t.racedOut }) ∧
    (s.busError .read (s.src.toNat + 4 * s.count.toNat) = false →
      s.busError .write (s.dst.toNat + 4 * s.count.toNat) = true →
      ∃ t, engineStep s = .next t ∧
        t = { s with
              busy := false, done := true, errCode := 6, errInfo := BitVec.ofNat 32 (s.dst.toNat + 4 * s.count.toNat),
              mem := t.mem, runMem := t.runMem, racedIn := t.racedIn, racedOut := t.racedOut,
              freeCount := t.freeCount } ∧
        ∀ a, a < s.dst.toNat + 4 * s.count.toNat ∨ s.dst.toNat + 4 * s.count.toNat + 4 ≤ a →
          t.mem.byteAt a = s.mem.byteAt a)

/-- The engine's frame (R52, R116): whatever a step does, it changes no byte outside the word at DST + 4·COUNT, and no
register but BUSY, DONE, ERRCODE, COUNT, PREV and ERR_INFO. -/
def Obligations.EngineStepFrame : Prop :=
  ∀ s t : State, engineStep s = .next t →
    t.irqEn = s.irqEn ∧ t.ovr = s.ovr ∧ t.coef = s.coef ∧ t.src = s.src ∧ t.dst = s.dst ∧ t.len = s.len ∧
    t.inReset = s.inReset ∧ t.inputs = s.inputs ∧ t.readData = s.readData ∧
    ∀ a, a < s.dst.toNat + 4 * s.count.toNat ∨ s.dst.toNat + 4 * s.count.toNat + 4 ≤ a →
      t.mem.byteAt a = s.mem.byteAt a

/-- R49, R69: from a state that meets the invariant the engine's turn answers a next state, and its accesses are aligned
words inside the address space. -/
def Obligations.EngineAccessesInSpace : Prop :=
  ∀ s : State, s.Inv → (∃ t, engineTurn s = .next t) ∧
    (s.busy = true →
      s.readAddr % 4 = 0 ∧ s.writeAddr % 4 = 0 ∧ s.readAddr + 4 ≤ 2 ^ 32 ∧ s.writeAddr + 4 ≤ 2 ^ 32 ∧
      s.readAddr = s.src.toNat + 4 * s.count.toNat ∧ s.writeAddr = s.dst.toNat + 4 * s.count.toNat)

/-! ## Arithmetic -/

/-- R130 to R133: sample 0, and every sample under a coefficient of +0 or -0, is copied bit for bit; elsewhere this
hardware rounds the product and then the difference with it. -/
def Obligations.FirCases : Prop :=
  (∀ x p c : Word, fir 0 x p c = x) ∧
  (∀ (i : Nat) (x p c : Word), c = 0x00000000 ∨ c = 0x80000000 → fir i x p c = x) ∧
  (∀ (i : Nat) (x p c : Word), 1 ≤ i → c ≠ 0x00000000 → c ≠ 0x80000000 → fir i x p c = f32Sub x (f32Mul c p))

/-- R134: output i is fir(i, xs[i], (if i = 0 then 0 else xs[i-1]), c), and there are as many outputs as inputs. -/
def Obligations.PreemphElementwise : Prop :=
  ∀ (xs : List Word) (c : Word), (preemph xs c).length = xs.length ∧
    ∀ (i : Nat) (h : i < xs.length),
      (preemph xs c)[i]? = some (fir i xs[i] (if i = 0 then 0x00000000 else xs[i - 1]) c)

/-- R128: a NaN result is a quiet NaN, E = 0xFF and F[22] = 1, whatever the open parameter is. -/
def Obligations.NanResultsAreQuiet : Prop :=
  ∀ op : NanOp, (nanResult op).extractLsb' 23 8 = 0xFF ∧ (nanResult op).getLsbD 22 = true ∧
    isNaN (nanResult op) = true

/-- R125: every case of the product: NaN operands and ∞·0 give a quiet NaN, ∞ and zero operands a signed ∞ or zero, and
finite nonzero operands `round32` of their exact product, r·2^-149 units. -/
def Obligations.F32MulCases : Prop :=
  ∀ a b : Word,
    (isNaN a = true ∨ isNaN b = true → isQuietNaN (f32Mul a b) = true) ∧
    (isInf a = true → isZero b = true → isQuietNaN (f32Mul a b) = true ∧ isQuietNaN (f32Mul b a) = true) ∧
    (isInf a = true → isNaN b = false → isZero b = false →
      f32Mul a b = fpInf (fpSign a ^^ fpSign b) ∧ f32Mul b a = fpInf (fpSign a ^^ fpSign b)) ∧
    (isZero a = true → isFinite b = true →
      f32Mul a b = fpZero (fpSign a ^^ fpSign b) ∧ f32Mul b a = fpZero (fpSign a ^^ fpSign b)) ∧
    (isFinite a = true → isFinite b = true → isZero a = false → isZero b = false →
      ∃ r : Int, r = units a * units b ∧ r ≠ 0 ∧ decide (r < 0) = (fpSign a ^^ fpSign b) ∧
        f32Mul a b = round32 (decide (r < 0)) r.natAbs 149)

/-- R126: every case of the difference: the special ones, x - x = +0 for every finite x (R136), and for finite operands
not both zero +0 when they are equal, else `round32` of their exact difference, r units. -/
def Obligations.F32SubCases : Prop :=
  ∀ a b : Word,
    (isNaN a = true ∨ isNaN b = true → isQuietNaN (f32Sub a b) = true) ∧
    (isInf a = true → isInf b = true → fpSign a = fpSign b → isQuietNaN (f32Sub a b) = true) ∧
    (isInf a = true → isInf b = true → fpSign a ≠ fpSign b → f32Sub a b = a) ∧
    (isInf a = true → isFinite b = true → f32Sub a b = a) ∧
    (isFinite a = true → isInf b = true → f32Sub a b = fpInf (!fpSign b)) ∧
    (isZero a = true → isZero b = true → fpSign a ≠ fpSign b → f32Sub a b = a) ∧
    (isZero a = true → isZero b = true → fpSign a = fpSign b → f32Sub a b = 0x00000000) ∧
    (isFinite a = true → f32Sub a a = 0x00000000) ∧
    (isFinite a = true → isFinite b = true → (isZero a = false ∨ isZero b = false) →
      ∃ r : Int, r = units a - units b ∧
        (r = 0 → f32Sub a b = 0x00000000) ∧
        (r ≠ 0 → f32Sub a b = round32 (decide (r < 0)) r.natAbs 0))

/-- R124, on the magnitude n·2^-q in units of 2^-149 (n not 0): `round32` answers the sign given and the pattern of an
element of the finite magnitudes and 2^128 (pattern 0x7F800000, that of an infinity); no element is nearer, and when
another is as near the pattern chosen is even. -/
def Obligations.RoundsToNearestEven : Prop :=
  ∀ (neg : Bool) (n q : Nat), 0 < n →
    let r := ((round32 neg n q).extractLsb' 0 31).toNat
    (round32 neg n q).getLsbD 31 = neg ∧ r ≤ 0x7F800000 ∧
    ∀ b : Nat, b ≤ 0x7F800000 →
      ((n : Int) - (magUnits r : Int) * 2 ^ q).natAbs ≤ ((n : Int) - (magUnits b : Int) * 2 ^ q).natAbs ∧
      (((n : Int) - (magUnits b : Int) * 2 ^ q).natAbs = ((n : Int) - (magUnits r : Int) * 2 ^ q).natAbs →
        b ≠ r → r % 2 = 0)

/-- R122, R124: a finite word's value in units of 2^-149 is ±F for a subnormal or zero and ±(2^23 + F)·2^(E-1) for a
normal, and a nonzero one, subnormals included, rounds to itself at every scale. -/
def Obligations.RepresentableRoundsToItself : Prop :=
  ∀ (w : Word) (q : Nat), isFinite w = true →
    ((fpExp w).toNat = 0 → units w = (if fpSign w then -1 else 1) * ((fpFrac w).toNat : Int)) ∧
    ((fpExp w).toNat ≠ 0 → units w =
      (if fpSign w then -1 else 1) * ((2 ^ 23 + (fpFrac w).toNat : Int) * 2 ^ ((fpExp w).toNat - 1))) ∧
    (isZero w = false → round32 (fpSign w) ((units w).natAbs * 2 ^ q) q = w)

/-- R125, R124: 1.0 times any word that is no NaN is that word, bit for bit. -/
def Obligations.ProductWithOne : Prop :=
  ∀ w : Word, isNaN w = false → f32Mul 0x3F800000 w = w ∧ f32Mul w 0x3F800000 = w

/-! ## Reset -/

/-- R44: the registers of the reset state as the host reads them, `irq` low, the engine idle. -/
def Obligations.ResetStateRegisters : Prop :=
  let s := State.reset
  s.ctrlWord = 0x00000000 ∧ s.statusWord = 0x00000000 ∧ s.irqEn = false ∧ s.busy = false ∧ s.done = false ∧
  s.ovr = false ∧ s.errCode = 0 ∧ s.coef = 0x00000000 ∧ s.src = 0x00000000 ∧ s.dst = 0x00000000 ∧ s.len = 0x00000000 ∧
  s.count = 0x00000000 ∧ s.prev = 0x00000000 ∧ s.errInfo = 0x00000000 ∧ s.irq = false

/-- R157, R159, R158: asserting `rst_n` puts every register at its reset value, whatever the block is doing; memory keeps
every byte but, with a write in flight during a run, those of one word (any value). That this word is the one at
DST + 4·COUNT, and that a flag of the input says whether a write is in flight, is the model's choice (log 9). Releasing
`rst_n` changes nothing else, so the next host access sees the reset state. The platform's state, the schedule and the
model's own fields are not the block's; that `rst_n` is a level is the model's choice (log 10). -/
def Obligations.ResetAssertAndRelease : Prop :=
  (∀ (s : State) (f : Bool) (rest : List Input), s.inputs = .assertReset f :: rest →
    ∃ t, step s = .next t ∧ t.irq = false ∧
      t = { State.reset with mem := t.mem, busErrs := s.busErrs, inReset := true, inputs := rest,
                             readData := t.readData, freeCount := t.freeCount } ∧
      ((f = false ∨ s.busy = false) → t.mem = s.mem) ∧
      ∀ a, a < s.dst.toNat + 4 * s.count.toNat ∨ s.dst.toNat + 4 * s.count.toNat + 4 ≤ a →
        t.mem.byteAt a = s.mem.byteAt a) ∧
  (∀ (s : State) (rest : List Input), s.inputs = .releaseReset :: rest →
    step s = .next { s with inReset := false, inputs := rest }) ∧
  (∀ (s : State) (rest : List Input), s.Inv → s.inReset = true → s.inputs = .releaseReset :: rest →
    step s = .next { State.reset with mem := s.mem, busErrs := s.busErrs, inputs := rest, readData := s.readData,
                                      freeCount := s.freeCount })

/-- R161: after reset the block is idle, and a RUN issued straight after it completes at once with ERRCODE = 0: only DONE
changes. -/
def Obligations.RunAfterReset : Prop :=
  State.reset.busy = false ∧ State.reset.done = false ∧ State.reset.coef = 0x00000000 ∧
  State.reset.src = 0x00000000 ∧ State.reset.dst = 0x00000000 ∧ State.reset.len = 0x00000000 ∧
  exec .run State.reset = .next { State.reset with done := true }

/-! ## Invariants and runs -/

/-- The reset state meets the invariant (R44, R39). -/
def Obligations.ResetMeetsInvariant : Prop := State.reset.Inv

/-- R39 and the rules around it: from every state that meets the invariant, every step that answers a next state gives
one that meets it, whatever the schedule holds. -/
def Obligations.StepKeepsInvariant : Prop :=
  ∀ s t : State, s.Inv → step s = .next t → t.Inv

/-- R169: with nothing else scheduled, a run in progress ends after at most LEN - COUNT engine steps: with code 0 after
exactly that many, or earlier with code 5 or 6. -/
def Obligations.RunTerminates : Prop :=
  ∀ s : State, s.Inv → s.busy = true → s.inputs = [] →
    ∃ (k : Nat) (t : State), 0 < k ∧ k ≤ s.len.toNat - s.count.toNat ∧ runSteps k s = .next t ∧
      t.busy = false ∧ t.done = true ∧
      ((t.errCode = 0 ∧ k = s.len.toNat - s.count.toNat ∧ t.count = t.len) ∨ t.errCode = 5 ∨ t.errCode = 6)

/-- R120, R119: a RUN issued in an idle block with operands that pass the checks, LEN > 0 and no BusError on its
regions takes LEN engine steps and leaves preemph of the input words in the LEN words at DST, code 0, COUNT = LEN and
PREV the last input word; no byte outside them changes, nor any operand. -/
def Obligations.RunComputesPreemph : Prop :=
  ∀ s : State, s.busy = false → s.inReset = false → s.OperandsChecked → 0 < s.len.toNat → s.NoBusErrors →
    ∃ t, runSteps (s.len.toNat + 1) (s.issueRun []) = .next t ∧
      t.mem.words s.dst.toNat s.len.toNat = preemph (s.mem.words s.src.toNat s.len.toNat) s.coef ∧
      (∀ a, a < s.dst.toNat ∨ s.dst.toNat + 4 * s.len.toNat ≤ a → t.mem.byteAt a = s.mem.byteAt a) ∧
      t.prev = s.mem.wordAt (s.src.toNat + 4 * (s.len.toNat - 1)) ∧
      t = { s with busy := false, done := true, errCode := 0, errInfo := 0, count := s.len, prev := t.prev,
                   mem := t.mem, inputs := [], runMem := [], racedIn := [], racedOut := [] }

/-- R120, for every schedule in which the host keeps R163 to R165: register accesses, reads of memory, writes of memory
outside the buffers and changes of the platform may come between the engine's steps in any number and order. If the run
completes at the last of k + 1 steps with code 0, every output word is preemph's of the words at SRC when the run was
issued, and no other byte has changed but those the schedule's own writes cover. -/
def Obligations.RunUnderAnySchedule : Prop :=
  ∀ (s t : State) (rest : List Input) (k : Nat),
    s.busy = false → s.inReset = false → s.OperandsChecked → (∀ x ∈ rest, keepsRules s x) →
    (∀ j < k, ∃ u, runSteps (j + 1) (s.issueRun rest) = .next u ∧ u.busy = true) →
    runSteps (k + 1) (s.issueRun rest) = .next t → t.busy = false → t.errCode = 0 →
    (∀ i < s.len.toNat, t.mem.wordAt (s.dst.toNat + 4 * i) = outputAt s s.mem i) ∧
    (∀ a, a < s.dst.toNat ∨ s.dst.toNat + 4 * s.len.toNat ≤ a → (∀ x ∈ rest, ¬ coversByte a x) →
      t.mem.byteAt a = s.mem.byteAt a)

/-- R121: two runs with the same coefficient, the same LEN and the same input words end with the same output words,
whatever else differs: the buffers' places, earlier COUNT and PREV, flags, the rest of memory. -/
def Obligations.RunDependsOnInputsOnly : Prop :=
  ∀ s₁ s₂ : State,
    s₁.busy = false → s₁.inReset = false → s₁.OperandsChecked → 0 < s₁.len.toNat → s₁.NoBusErrors →
    s₂.busy = false → s₂.inReset = false → s₂.OperandsChecked → s₂.NoBusErrors →
    s₁.coef = s₂.coef → s₁.len = s₂.len →
    s₁.mem.words s₁.src.toNat s₁.len.toNat = s₂.mem.words s₂.src.toNat s₂.len.toNat →
    ∃ t₁ t₂, runSteps (s₁.len.toNat + 1) (s₁.issueRun []) = .next t₁ ∧
      runSteps (s₂.len.toNat + 1) (s₂.issueRun []) = .next t₂ ∧
      t₁.mem.words s₁.dst.toNat s₁.len.toNat = t₂.mem.words s₂.dst.toNat s₂.len.toNat ∧
      t₁.errCode = t₂.errCode ∧ t₁.count = t₂.count ∧ t₁.prev = t₂.prev

/-- R117, R118, R146: a run whose first BusError is at sample i ends precisely: the outputs before i hold their results,
COUNT = i, PREV = x[i-1] (0 if i = 0), ERR_INFO the address; on a read error no other byte changes, on a write error
none but those of word i, which is any value. -/
def Obligations.BusErrorsArePrecise : Prop :=
  ∀ (s : State) (i : Nat), s.busy = false → s.inReset = false → s.OperandsChecked → i < s.len.toNat →
    (∀ j < i, s.busError .read (s.src.toNat + 4 * j) = false ∧ s.busError .write (s.dst.toNat + 4 * j) = false) →
    (s.busError .read (s.src.toNat + 4 * i) = true →
      ∃ t, runSteps (i + 2) (s.issueRun []) = .next t ∧ t.busy = false ∧ t.done = true ∧ t.errCode = 5 ∧
        t.errInfo.toNat = s.src.toNat + 4 * i ∧ t.count.toNat = i ∧
        t.prev = (if i = 0 then 0 else inputAt s s.mem (i - 1)) ∧
        (∀ j < i, t.mem.wordAt (s.dst.toNat + 4 * j) = outputAt s s.mem j) ∧
        ∀ a, a < s.dst.toNat ∨ s.dst.toNat + 4 * i ≤ a → t.mem.byteAt a = s.mem.byteAt a) ∧
    (s.busError .read (s.src.toNat + 4 * i) = false → s.busError .write (s.dst.toNat + 4 * i) = true →
      ∃ t, runSteps (i + 2) (s.issueRun []) = .next t ∧ t.busy = false ∧ t.done = true ∧ t.errCode = 6 ∧
        t.errInfo.toNat = s.dst.toNat + 4 * i ∧ t.count.toNat = i ∧
        t.prev = (if i = 0 then 0 else inputAt s s.mem (i - 1)) ∧
        (∀ j < i, t.mem.wordAt (s.dst.toNat + 4 * j) = outputAt s s.mem j) ∧
        ∀ a, a < s.dst.toNat ∨ s.dst.toNat + 4 * (i + 1) ≤ a → t.mem.byteAt a = s.mem.byteAt a)
end

