-- ==== Sys2Proof/Laws/Memory.lean ====
section
/-! SUPPORT. Data memory: what a read sees after a write, and that every write keeps the canonical form. -/

namespace Sys2Proof.Machine

theorem Memory.get?_set (m : Memory) (a a' : Nat) (b : Byte) :
    (m.set a b).get? a' = if a' = a then some b else m.get? a' := by
  induction m with
  | nil => simp only [Memory.set, Memory.get?]; split <;> split <;> first | rfl | omega
  | cons c m ih =>
    obtain ⟨k, v⟩ := c
    by_cases h1 : a < k
    · simp only [Memory.set, Memory.get?, h1, if_true]
      split_ifs <;> first | rfl | omega
    · by_cases h2 : a = k
      · subst h2
        simp only [Memory.set, Memory.get?, h1, if_false, if_true]
        split_ifs <;> first | rfl | omega
      · simp only [Memory.set, Memory.get?, h1, h2, if_false, ih]
        split_ifs <;> first | rfl | omega

/-- What memory holds after one byte is written. -/
theorem Memory.byteAt_set (m : Memory) (a a' : Nat) (b : Byte) :
    (m.set a b).byteAt a' = if a' = a then b else m.byteAt a' := by
  simp only [Memory.byteAt, Memory.get?_set]
  split <;> rfl

theorem Memory.mem_set {m : Memory} {a : Nat} {b : Byte} {c : Host.Cell} (h : c ∈ m.set a b) :
    c = (a, b) ∨ c ∈ m := by
  induction m with
  | nil => simpa [Memory.set] using h
  | cons x m ih =>
    obtain ⟨k, v⟩ := x
    simp only [Memory.set] at h
    split_ifs at h
    · exact List.mem_cons.mp h
    · rcases List.mem_cons.mp h with h | h
      · exact .inl h
      · exact .inr (List.mem_cons_of_mem _ h)
    · rcases List.mem_cons.mp h with h | h
      · exact .inr (h ▸ List.mem_cons_self)
      · exact (ih h).imp_right (List.mem_cons_of_mem _)

theorem Memory.pairwise_set {m : Memory} (a : Nat) (b : Byte) (h : m.Pairwise (fun x y => x.1 < y.1)) :
    (m.set a b).Pairwise (fun x y => x.1 < y.1) := by
  induction m with
  | nil => simp [Memory.set]
  | cons x m ih =>
    obtain ⟨k, v⟩ := x
    obtain ⟨hk, hm⟩ := List.pairwise_cons.mp h
    simp only [Memory.set]
    split_ifs with h1 h2
    · refine List.pairwise_cons.mpr ⟨fun y hy => ?_, h⟩
      rcases List.mem_cons.mp hy with rfl | hy
      · exact h1
      · exact h1.trans (hk y hy)
    · exact List.pairwise_cons.mpr ⟨fun y hy => h2 ▸ hk y hy, hm⟩
    · refine List.pairwise_cons.mpr ⟨fun y hy => ?_, ih hm⟩
      rcases Memory.mem_set hy with rfl | hy
      · exact lt_of_le_of_ne (not_lt.mp h1) (Ne.symm h2)
      · exact hk y hy

/-- A byte written inside the address space keeps memory canonical. -/
theorem Memory.wf_set {m : Memory} {a : Nat} (b : Byte) (h : m.wf) (ha : a < addrLimit) : (m.set a b).wf := by
  refine ⟨Memory.pairwise_set a b h.1, fun c hc => ?_⟩
  rcases Memory.mem_set hc with rfl | hc
  · exact ha
  · exact h.2 c hc

/-- A word written inside the address space keeps memory canonical. -/
theorem Memory.wf_setWord {m : Memory} {a : Nat} (v : Word) (h : m.wf) (ha : a + 4 ≤ addrLimit) :
    (m.setWord a v).wf := by
  refine Memory.wf_set _ (Memory.wf_set _ (Memory.wf_set _ (Memory.wf_set _ h ?_) ?_) ?_) ?_ <;> omega

/-- A word written leaves every other byte alone. -/
theorem Memory.byteAt_setWord_ne (m : Memory) {a a' : Nat} (v : Word) (h : a' < a ∨ a + 4 ≤ a') :
    (m.setWord a v).byteAt a' = m.byteAt a' := by
  simp only [Memory.setWord, Memory.byteAt_set]
  rw [if_neg (by omega), if_neg (by omega), if_neg (by omega), if_neg (by omega)]

/-- Byte `k` of a word written at `a` lies at `a + k` (R45). -/
theorem Memory.byteAt_setWord (m : Memory) (a : Nat) (v : Word) {k : Nat} (h : k < 4) :
    (m.setWord a v).byteAt (a + k) = byteLane v k := by
  simp only [Memory.setWord, Memory.byteAt_set]
  interval_cases k <;> simp

/-- The four bytes of a word make the word (R45). -/
theorem bytes_of_word (v : Word) : byteLane v 3 ++ byteLane v 2 ++ byteLane v 1 ++ byteLane v 0 = v := by
  ext i hi
  simp only [byteLane, BitVec.getElem_append, BitVec.getElem_extractLsb']
  split_ifs <;> (rw [← BitVec.getLsbD_eq_getElem]; congr 1; omega)

/-- A word read where it was written. -/
theorem Memory.wordAt_setWord (m : Memory) (a : Nat) (v : Word) : (m.setWord a v).wordAt a = v := by
  have h0 := Memory.byteAt_setWord m a v (k := 0) (by omega)
  simp only [Memory.wordAt, Memory.byteAt_setWord m a v (k := 3) (by omega),
    Memory.byteAt_setWord m a v (k := 2) (by omega), Memory.byteAt_setWord m a v (k := 1) (by omega)]
  rw [Nat.add_zero] at h0
  rw [h0]
  exact bytes_of_word v

/-- A word read away from where another was written. -/
theorem Memory.wordAt_setWord_ne (m : Memory) {a a' : Nat} (v : Word) (h : a' + 4 ≤ a ∨ a + 4 ≤ a') :
    (m.setWord a v).wordAt a' = m.wordAt a' := by
  simp only [Memory.wordAt]
  rw [Memory.byteAt_setWord_ne m v (by omega), Memory.byteAt_setWord_ne m v (by omega),
    Memory.byteAt_setWord_ne m v (by omega), Memory.byteAt_setWord_ne m v (by omega)]

@[simp] theorem Memory.words_length (m : Memory) (a n : Nat) : (m.words a n).length = n := by
  induction n generalizing a with
  | zero => rfl
  | succ n ih => simp [Memory.words, ih]

/-- Sample `i` of a signal is the word at base + 4·i (R48). -/
theorem Memory.words_getElem (m : Memory) (a n i : Nat) (h : i < (m.words a n).length) :
    (m.words a n)[i] = m.wordAt (a + 4 * i) := by
  induction n generalizing a i with
  | zero => simp [Memory.words] at h
  | succ n ih =>
    cases i with
    | zero => simp [Memory.words]
    | succ i =>
      simp only [Memory.words, List.getElem_cons_succ]
      rw [ih]
      congr 1
      omega

end Sys2Proof.Machine
end

