-- ==== Sys2Proof/Laws/Operands.lean ====
section
/-! SUPPORT. The operand tests as arithmetic on addresses. -/

namespace Sys2Proof.Machine

theorem addrLimit_eq : addrLimit = 4294967296 := rfl

theorem misaligned_iff (base : Word) : misaligned base = true ↔ base.toNat % 4 ≠ 0 := by simp [misaligned]

theorem outOfRange_iff (base len : Word) :
    outOfRange base len = true ↔ 4294967296 < base.toNat + 4 * len.toNat := decide_eq_true_iff

/-- R113's test says that the two regions share a byte. -/
theorem overlaps_iff (src dst len : Word) :
    overlaps src dst len = true ↔
      0 < len.toNat ∧ src.toNat < dst.toNat + 4 * len.toNat ∧ dst.toNat < src.toNat + 4 * len.toNat := decide_eq_true_iff

theorem inRegion_iff (base len : Word) (a : Nat) :
    inRegion base len a = true ↔ base.toNat ≤ a ∧ a < base.toNat + 4 * len.toNat := decide_eq_true_iff

theorem readAddr_eq (s : State) : s.readAddr = s.src.toNat + 4 * s.count.toNat := rfl

theorem writeAddr_eq (s : State) : s.writeAddr = s.dst.toNat + 4 * s.count.toNat := rfl

/-- COUNT + 1 does not wrap below LEN (R40), and it is LEN at the last sample. -/
theorem count_succ {count len : Word} (h : count.toNat < len.toNat) :
    (count + 1).toNat = count.toNat + 1 ∧ (count + 1 = len ↔ count.toNat + 1 = len.toNat) := by
  have hl := len.isLt
  have hc : (count + 1).toNat = count.toNat + 1 := by simp [BitVec.toNat_add]; omega
  exact ⟨hc, by rw [← BitVec.toNat_inj, hc]⟩

end Sys2Proof.Machine
end

