-- ==== Sys2Proof/Laws/State.lean ====
section
/-! SUPPORT. What each named update of the state does to each field: true by rfl, so that no later proof unfolds an
update. -/

namespace Sys2Proof.Machine

variable (s : State)

/-! `State.returnWord` -/

@[simp] theorem State.returnWord_irqEn (v : Word) : (s.returnWord v).irqEn = s.irqEn := rfl
@[simp] theorem State.returnWord_busy (v : Word) : (s.returnWord v).busy = s.busy := rfl
@[simp] theorem State.returnWord_done (v : Word) : (s.returnWord v).done = s.done := rfl
@[simp] theorem State.returnWord_ovr (v : Word) : (s.returnWord v).ovr = s.ovr := rfl
@[simp] theorem State.returnWord_errCode (v : Word) : (s.returnWord v).errCode = s.errCode := rfl
@[simp] theorem State.returnWord_coef (v : Word) : (s.returnWord v).coef = s.coef := rfl
@[simp] theorem State.returnWord_src (v : Word) : (s.returnWord v).src = s.src := rfl
@[simp] theorem State.returnWord_dst (v : Word) : (s.returnWord v).dst = s.dst := rfl
@[simp] theorem State.returnWord_len (v : Word) : (s.returnWord v).len = s.len := rfl
@[simp] theorem State.returnWord_count (v : Word) : (s.returnWord v).count = s.count := rfl
@[simp] theorem State.returnWord_prev (v : Word) : (s.returnWord v).prev = s.prev := rfl
@[simp] theorem State.returnWord_errInfo (v : Word) : (s.returnWord v).errInfo = s.errInfo := rfl
@[simp] theorem State.returnWord_mem (v : Word) : (s.returnWord v).mem = s.mem := rfl
@[simp] theorem State.returnWord_busErrs (v : Word) : (s.returnWord v).busErrs = s.busErrs := rfl
@[simp] theorem State.returnWord_inReset (v : Word) : (s.returnWord v).inReset = s.inReset := rfl
@[simp] theorem State.returnWord_inputs (v : Word) : (s.returnWord v).inputs = s.inputs := rfl
@[simp] theorem State.returnWord_readData (v : Word) : (s.returnWord v).readData = some v := rfl
@[simp] theorem State.returnWord_runMem (v : Word) : (s.returnWord v).runMem = s.runMem := rfl
@[simp] theorem State.returnWord_racedIn (v : Word) : (s.returnWord v).racedIn = s.racedIn := rfl
@[simp] theorem State.returnWord_racedOut (v : Word) : (s.returnWord v).racedOut = s.racedOut := rfl
@[simp] theorem State.returnWord_freeCount (v : Word) : (s.returnWord v).freeCount = s.freeCount := rfl

/-! `State.setOvr` -/

@[simp] theorem State.setOvr_irqEn : (s.setOvr).irqEn = s.irqEn := rfl
@[simp] theorem State.setOvr_busy : (s.setOvr).busy = s.busy := rfl
@[simp] theorem State.setOvr_done : (s.setOvr).done = s.done := rfl
@[simp] theorem State.setOvr_ovr : (s.setOvr).ovr = true := rfl
@[simp] theorem State.setOvr_errCode : (s.setOvr).errCode = s.errCode := rfl
@[simp] theorem State.setOvr_coef : (s.setOvr).coef = s.coef := rfl
@[simp] theorem State.setOvr_src : (s.setOvr).src = s.src := rfl
@[simp] theorem State.setOvr_dst : (s.setOvr).dst = s.dst := rfl
@[simp] theorem State.setOvr_len : (s.setOvr).len = s.len := rfl
@[simp] theorem State.setOvr_count : (s.setOvr).count = s.count := rfl
@[simp] theorem State.setOvr_prev : (s.setOvr).prev = s.prev := rfl
@[simp] theorem State.setOvr_errInfo : (s.setOvr).errInfo = s.errInfo := rfl
@[simp] theorem State.setOvr_mem : (s.setOvr).mem = s.mem := rfl
@[simp] theorem State.setOvr_busErrs : (s.setOvr).busErrs = s.busErrs := rfl
@[simp] theorem State.setOvr_inReset : (s.setOvr).inReset = s.inReset := rfl
@[simp] theorem State.setOvr_inputs : (s.setOvr).inputs = s.inputs := rfl
@[simp] theorem State.setOvr_readData : (s.setOvr).readData = s.readData := rfl
@[simp] theorem State.setOvr_runMem : (s.setOvr).runMem = s.runMem := rfl
@[simp] theorem State.setOvr_racedIn : (s.setOvr).racedIn = s.racedIn := rfl
@[simp] theorem State.setOvr_racedOut : (s.setOvr).racedOut = s.racedOut := rfl
@[simp] theorem State.setOvr_freeCount : (s.setOvr).freeCount = s.freeCount := rfl

/-! `State.clearStatus` -/

@[simp] theorem State.clearStatus_irqEn (d : Word) : (s.clearStatus d).irqEn = s.irqEn := rfl
@[simp] theorem State.clearStatus_busy (d : Word) : (s.clearStatus d).busy = s.busy := rfl
@[simp] theorem State.clearStatus_done (d : Word) : (s.clearStatus d).done = (s.done && !d.getLsbD 1) := rfl
@[simp] theorem State.clearStatus_ovr (d : Word) : (s.clearStatus d).ovr = (s.ovr && !d.getLsbD 2) := rfl
@[simp] theorem State.clearStatus_errCode (d : Word) : (s.clearStatus d).errCode = s.errCode := rfl
@[simp] theorem State.clearStatus_coef (d : Word) : (s.clearStatus d).coef = s.coef := rfl
@[simp] theorem State.clearStatus_src (d : Word) : (s.clearStatus d).src = s.src := rfl
@[simp] theorem State.clearStatus_dst (d : Word) : (s.clearStatus d).dst = s.dst := rfl
@[simp] theorem State.clearStatus_len (d : Word) : (s.clearStatus d).len = s.len := rfl
@[simp] theorem State.clearStatus_count (d : Word) : (s.clearStatus d).count = s.count := rfl
@[simp] theorem State.clearStatus_prev (d : Word) : (s.clearStatus d).prev = s.prev := rfl
@[simp] theorem State.clearStatus_errInfo (d : Word) : (s.clearStatus d).errInfo = s.errInfo := rfl
@[simp] theorem State.clearStatus_mem (d : Word) : (s.clearStatus d).mem = s.mem := rfl
@[simp] theorem State.clearStatus_busErrs (d : Word) : (s.clearStatus d).busErrs = s.busErrs := rfl
@[simp] theorem State.clearStatus_inReset (d : Word) : (s.clearStatus d).inReset = s.inReset := rfl
@[simp] theorem State.clearStatus_inputs (d : Word) : (s.clearStatus d).inputs = s.inputs := rfl
@[simp] theorem State.clearStatus_readData (d : Word) : (s.clearStatus d).readData = s.readData := rfl
@[simp] theorem State.clearStatus_runMem (d : Word) : (s.clearStatus d).runMem = s.runMem := rfl
@[simp] theorem State.clearStatus_racedIn (d : Word) : (s.clearStatus d).racedIn = s.racedIn := rfl
@[simp] theorem State.clearStatus_racedOut (d : Word) : (s.clearStatus d).racedOut = s.racedOut := rfl
@[simp] theorem State.clearStatus_freeCount (d : Word) : (s.clearStatus d).freeCount = s.freeCount := rfl

/-! `complete` -/

@[simp] theorem complete_irqEn (c : BitVec 4) (v : Word) : (complete c v s).irqEn = s.irqEn := rfl
@[simp] theorem complete_busy (c : BitVec 4) (v : Word) : (complete c v s).busy = false := rfl
@[simp] theorem complete_done (c : BitVec 4) (v : Word) : (complete c v s).done = true := rfl
@[simp] theorem complete_ovr (c : BitVec 4) (v : Word) : (complete c v s).ovr = s.ovr := rfl
@[simp] theorem complete_errCode (c : BitVec 4) (v : Word) : (complete c v s).errCode = c := rfl
@[simp] theorem complete_coef (c : BitVec 4) (v : Word) : (complete c v s).coef = s.coef := rfl
@[simp] theorem complete_src (c : BitVec 4) (v : Word) : (complete c v s).src = s.src := rfl
@[simp] theorem complete_dst (c : BitVec 4) (v : Word) : (complete c v s).dst = s.dst := rfl
@[simp] theorem complete_len (c : BitVec 4) (v : Word) : (complete c v s).len = s.len := rfl
@[simp] theorem complete_count (c : BitVec 4) (v : Word) : (complete c v s).count = s.count := rfl
@[simp] theorem complete_prev (c : BitVec 4) (v : Word) : (complete c v s).prev = s.prev := rfl
@[simp] theorem complete_errInfo (c : BitVec 4) (v : Word) : (complete c v s).errInfo = v := rfl
@[simp] theorem complete_mem (c : BitVec 4) (v : Word) : (complete c v s).mem = s.mem := rfl
@[simp] theorem complete_busErrs (c : BitVec 4) (v : Word) : (complete c v s).busErrs = s.busErrs := rfl
@[simp] theorem complete_inReset (c : BitVec 4) (v : Word) : (complete c v s).inReset = s.inReset := rfl
@[simp] theorem complete_inputs (c : BitVec 4) (v : Word) : (complete c v s).inputs = s.inputs := rfl
@[simp] theorem complete_readData (c : BitVec 4) (v : Word) : (complete c v s).readData = s.readData := rfl
@[simp] theorem complete_runMem (c : BitVec 4) (v : Word) : (complete c v s).runMem = s.runMem := rfl
@[simp] theorem complete_racedIn (c : BitVec 4) (v : Word) : (complete c v s).racedIn = s.racedIn := rfl
@[simp] theorem complete_racedOut (c : BitVec 4) (v : Word) : (complete c v s).racedOut = s.racedOut := rfl
@[simp] theorem complete_freeCount (c : BitVec 4) (v : Word) : (complete c v s).freeCount = s.freeCount := rfl

/-! `endRun` -/

@[simp] theorem endRun_irqEn (c : BitVec 4) (v : Word) : (endRun c v s).irqEn = s.irqEn := rfl
@[simp] theorem endRun_busy (c : BitVec 4) (v : Word) : (endRun c v s).busy = false := rfl
@[simp] theorem endRun_done (c : BitVec 4) (v : Word) : (endRun c v s).done = true := rfl
@[simp] theorem endRun_ovr (c : BitVec 4) (v : Word) : (endRun c v s).ovr = s.ovr := rfl
@[simp] theorem endRun_errCode (c : BitVec 4) (v : Word) : (endRun c v s).errCode = c := rfl
@[simp] theorem endRun_coef (c : BitVec 4) (v : Word) : (endRun c v s).coef = s.coef := rfl
@[simp] theorem endRun_src (c : BitVec 4) (v : Word) : (endRun c v s).src = s.src := rfl
@[simp] theorem endRun_dst (c : BitVec 4) (v : Word) : (endRun c v s).dst = s.dst := rfl
@[simp] theorem endRun_len (c : BitVec 4) (v : Word) : (endRun c v s).len = s.len := rfl
@[simp] theorem endRun_count (c : BitVec 4) (v : Word) : (endRun c v s).count = s.count := rfl
@[simp] theorem endRun_prev (c : BitVec 4) (v : Word) : (endRun c v s).prev = s.prev := rfl
@[simp] theorem endRun_errInfo (c : BitVec 4) (v : Word) : (endRun c v s).errInfo = v := rfl
@[simp] theorem endRun_mem (c : BitVec 4) (v : Word) : (endRun c v s).mem = s.mem := rfl
@[simp] theorem endRun_busErrs (c : BitVec 4) (v : Word) : (endRun c v s).busErrs = s.busErrs := rfl
@[simp] theorem endRun_inReset (c : BitVec 4) (v : Word) : (endRun c v s).inReset = s.inReset := rfl
@[simp] theorem endRun_inputs (c : BitVec 4) (v : Word) : (endRun c v s).inputs = s.inputs := rfl
@[simp] theorem endRun_readData (c : BitVec 4) (v : Word) : (endRun c v s).readData = s.readData := rfl
@[simp] theorem endRun_runMem (c : BitVec 4) (v : Word) : (endRun c v s).runMem = [] := rfl
@[simp] theorem endRun_racedIn (c : BitVec 4) (v : Word) : (endRun c v s).racedIn = [] := rfl
@[simp] theorem endRun_racedOut (c : BitVec 4) (v : Word) : (endRun c v s).racedOut = [] := rfl
@[simp] theorem endRun_freeCount (c : BitVec 4) (v : Word) : (endRun c v s).freeCount = s.freeCount := rfl

/-! `startRun` -/

@[simp] theorem startRun_irqEn : (startRun s).irqEn = s.irqEn := rfl
@[simp] theorem startRun_busy : (startRun s).busy = true := rfl
@[simp] theorem startRun_done : (startRun s).done = false := rfl
@[simp] theorem startRun_ovr : (startRun s).ovr = s.ovr := rfl
@[simp] theorem startRun_errCode : (startRun s).errCode = 0 := rfl
@[simp] theorem startRun_coef : (startRun s).coef = s.coef := rfl
@[simp] theorem startRun_src : (startRun s).src = s.src := rfl
@[simp] theorem startRun_dst : (startRun s).dst = s.dst := rfl
@[simp] theorem startRun_len : (startRun s).len = s.len := rfl
@[simp] theorem startRun_count : (startRun s).count = s.count := rfl
@[simp] theorem startRun_prev : (startRun s).prev = s.prev := rfl
@[simp] theorem startRun_errInfo : (startRun s).errInfo = 0 := rfl
@[simp] theorem startRun_mem : (startRun s).mem = s.mem := rfl
@[simp] theorem startRun_busErrs : (startRun s).busErrs = s.busErrs := rfl
@[simp] theorem startRun_inReset : (startRun s).inReset = s.inReset := rfl
@[simp] theorem startRun_inputs : (startRun s).inputs = s.inputs := rfl
@[simp] theorem startRun_readData : (startRun s).readData = s.readData := rfl
@[simp] theorem startRun_runMem : (startRun s).runMem = s.mem := rfl
@[simp] theorem startRun_racedIn : (startRun s).racedIn = [] := rfl
@[simp] theorem startRun_racedOut : (startRun s).racedOut = [] := rfl
@[simp] theorem startRun_freeCount : (startRun s).freeCount = s.freeCount := rfl

/-! `clearProgress` -/

@[simp] theorem clearProgress_irqEn : (clearProgress s).irqEn = s.irqEn := rfl
@[simp] theorem clearProgress_busy : (clearProgress s).busy = s.busy := rfl
@[simp] theorem clearProgress_done : (clearProgress s).done = s.done := rfl
@[simp] theorem clearProgress_ovr : (clearProgress s).ovr = s.ovr := rfl
@[simp] theorem clearProgress_errCode : (clearProgress s).errCode = s.errCode := rfl
@[simp] theorem clearProgress_coef : (clearProgress s).coef = s.coef := rfl
@[simp] theorem clearProgress_src : (clearProgress s).src = s.src := rfl
@[simp] theorem clearProgress_dst : (clearProgress s).dst = s.dst := rfl
@[simp] theorem clearProgress_len : (clearProgress s).len = s.len := rfl
@[simp] theorem clearProgress_count : (clearProgress s).count = 0 := rfl
@[simp] theorem clearProgress_prev : (clearProgress s).prev = 0 := rfl
@[simp] theorem clearProgress_errInfo : (clearProgress s).errInfo = s.errInfo := rfl
@[simp] theorem clearProgress_mem : (clearProgress s).mem = s.mem := rfl
@[simp] theorem clearProgress_busErrs : (clearProgress s).busErrs = s.busErrs := rfl
@[simp] theorem clearProgress_inReset : (clearProgress s).inReset = s.inReset := rfl
@[simp] theorem clearProgress_inputs : (clearProgress s).inputs = s.inputs := rfl
@[simp] theorem clearProgress_readData : (clearProgress s).readData = s.readData := rfl
@[simp] theorem clearProgress_runMem : (clearProgress s).runMem = s.runMem := rfl
@[simp] theorem clearProgress_racedIn : (clearProgress s).racedIn = s.racedIn := rfl
@[simp] theorem clearProgress_racedOut : (clearProgress s).racedOut = s.racedOut := rfl
@[simp] theorem clearProgress_freeCount : (clearProgress s).freeCount = s.freeCount := rfl

/-! `resetRegs` -/

@[simp] theorem resetRegs_irqEn : (resetRegs s).irqEn = false := rfl
@[simp] theorem resetRegs_busy : (resetRegs s).busy = false := rfl
@[simp] theorem resetRegs_done : (resetRegs s).done = false := rfl
@[simp] theorem resetRegs_ovr : (resetRegs s).ovr = false := rfl
@[simp] theorem resetRegs_errCode : (resetRegs s).errCode = 0 := rfl
@[simp] theorem resetRegs_coef : (resetRegs s).coef = 0 := rfl
@[simp] theorem resetRegs_src : (resetRegs s).src = 0 := rfl
@[simp] theorem resetRegs_dst : (resetRegs s).dst = 0 := rfl
@[simp] theorem resetRegs_len : (resetRegs s).len = 0 := rfl
@[simp] theorem resetRegs_count : (resetRegs s).count = 0 := rfl
@[simp] theorem resetRegs_prev : (resetRegs s).prev = 0 := rfl
@[simp] theorem resetRegs_errInfo : (resetRegs s).errInfo = 0 := rfl
@[simp] theorem resetRegs_mem : (resetRegs s).mem = s.mem := rfl
@[simp] theorem resetRegs_busErrs : (resetRegs s).busErrs = s.busErrs := rfl
@[simp] theorem resetRegs_inReset : (resetRegs s).inReset = s.inReset := rfl
@[simp] theorem resetRegs_inputs : (resetRegs s).inputs = s.inputs := rfl
@[simp] theorem resetRegs_readData : (resetRegs s).readData = s.readData := rfl
@[simp] theorem resetRegs_runMem : (resetRegs s).runMem = [] := rfl
@[simp] theorem resetRegs_racedIn : (resetRegs s).racedIn = [] := rfl
@[simp] theorem resetRegs_racedOut : (resetRegs s).racedOut = [] := rfl
@[simp] theorem resetRegs_freeCount : (resetRegs s).freeCount = s.freeCount := rfl

/-! `State.clobber` -/

@[simp] theorem State.clobber_irqEn (u : FreeUse) (a i : Nat) : (s.clobber u a i).irqEn = s.irqEn := rfl
@[simp] theorem State.clobber_busy (u : FreeUse) (a i : Nat) : (s.clobber u a i).busy = s.busy := rfl
@[simp] theorem State.clobber_done (u : FreeUse) (a i : Nat) : (s.clobber u a i).done = s.done := rfl
@[simp] theorem State.clobber_ovr (u : FreeUse) (a i : Nat) : (s.clobber u a i).ovr = s.ovr := rfl
@[simp] theorem State.clobber_errCode (u : FreeUse) (a i : Nat) : (s.clobber u a i).errCode = s.errCode := rfl
@[simp] theorem State.clobber_coef (u : FreeUse) (a i : Nat) : (s.clobber u a i).coef = s.coef := rfl
@[simp] theorem State.clobber_src (u : FreeUse) (a i : Nat) : (s.clobber u a i).src = s.src := rfl
@[simp] theorem State.clobber_dst (u : FreeUse) (a i : Nat) : (s.clobber u a i).dst = s.dst := rfl
@[simp] theorem State.clobber_len (u : FreeUse) (a i : Nat) : (s.clobber u a i).len = s.len := rfl
@[simp] theorem State.clobber_count (u : FreeUse) (a i : Nat) : (s.clobber u a i).count = s.count := rfl
@[simp] theorem State.clobber_prev (u : FreeUse) (a i : Nat) : (s.clobber u a i).prev = s.prev := rfl
@[simp] theorem State.clobber_errInfo (u : FreeUse) (a i : Nat) : (s.clobber u a i).errInfo = s.errInfo := rfl
@[simp] theorem State.clobber_mem (u : FreeUse) (a i : Nat) : (s.clobber u a i).mem = s.mem.setWord a (Config.freeWord u s.freeCount i) := rfl
@[simp] theorem State.clobber_busErrs (u : FreeUse) (a i : Nat) : (s.clobber u a i).busErrs = s.busErrs := rfl
@[simp] theorem State.clobber_inReset (u : FreeUse) (a i : Nat) : (s.clobber u a i).inReset = s.inReset := rfl
@[simp] theorem State.clobber_inputs (u : FreeUse) (a i : Nat) : (s.clobber u a i).inputs = s.inputs := rfl
@[simp] theorem State.clobber_readData (u : FreeUse) (a i : Nat) : (s.clobber u a i).readData = s.readData := rfl
@[simp] theorem State.clobber_runMem (u : FreeUse) (a i : Nat) : (s.clobber u a i).runMem = s.runMem := rfl
@[simp] theorem State.clobber_racedIn (u : FreeUse) (a i : Nat) : (s.clobber u a i).racedIn = s.racedIn := rfl
@[simp] theorem State.clobber_racedOut (u : FreeUse) (a i : Nat) : (s.clobber u a i).racedOut = s.racedOut := rfl
@[simp] theorem State.clobber_freeCount (u : FreeUse) (a i : Nat) : (s.clobber u a i).freeCount = s.freeCount := rfl

/-! `State.tick` -/

@[simp] theorem State.tick_irqEn : (s.tick).irqEn = s.irqEn := rfl
@[simp] theorem State.tick_busy : (s.tick).busy = s.busy := rfl
@[simp] theorem State.tick_done : (s.tick).done = s.done := rfl
@[simp] theorem State.tick_ovr : (s.tick).ovr = s.ovr := rfl
@[simp] theorem State.tick_errCode : (s.tick).errCode = s.errCode := rfl
@[simp] theorem State.tick_coef : (s.tick).coef = s.coef := rfl
@[simp] theorem State.tick_src : (s.tick).src = s.src := rfl
@[simp] theorem State.tick_dst : (s.tick).dst = s.dst := rfl
@[simp] theorem State.tick_len : (s.tick).len = s.len := rfl
@[simp] theorem State.tick_count : (s.tick).count = s.count := rfl
@[simp] theorem State.tick_prev : (s.tick).prev = s.prev := rfl
@[simp] theorem State.tick_errInfo : (s.tick).errInfo = s.errInfo := rfl
@[simp] theorem State.tick_mem : (s.tick).mem = s.mem := rfl
@[simp] theorem State.tick_busErrs : (s.tick).busErrs = s.busErrs := rfl
@[simp] theorem State.tick_inReset : (s.tick).inReset = s.inReset := rfl
@[simp] theorem State.tick_inputs : (s.tick).inputs = s.inputs := rfl
@[simp] theorem State.tick_readData : (s.tick).readData = s.readData := rfl
@[simp] theorem State.tick_runMem : (s.tick).runMem = s.runMem := rfl
@[simp] theorem State.tick_racedIn : (s.tick).racedIn = s.racedIn := rfl
@[simp] theorem State.tick_racedOut : (s.tick).racedOut = s.racedOut := rfl
@[simp] theorem State.tick_freeCount : (s.tick).freeCount = s.freeCount + 1 := rfl

/-! `releaseReset` -/

@[simp] theorem releaseReset_irqEn : (releaseReset s).irqEn = s.irqEn := rfl
@[simp] theorem releaseReset_busy : (releaseReset s).busy = s.busy := rfl
@[simp] theorem releaseReset_done : (releaseReset s).done = s.done := rfl
@[simp] theorem releaseReset_ovr : (releaseReset s).ovr = s.ovr := rfl
@[simp] theorem releaseReset_errCode : (releaseReset s).errCode = s.errCode := rfl
@[simp] theorem releaseReset_coef : (releaseReset s).coef = s.coef := rfl
@[simp] theorem releaseReset_src : (releaseReset s).src = s.src := rfl
@[simp] theorem releaseReset_dst : (releaseReset s).dst = s.dst := rfl
@[simp] theorem releaseReset_len : (releaseReset s).len = s.len := rfl
@[simp] theorem releaseReset_count : (releaseReset s).count = s.count := rfl
@[simp] theorem releaseReset_prev : (releaseReset s).prev = s.prev := rfl
@[simp] theorem releaseReset_errInfo : (releaseReset s).errInfo = s.errInfo := rfl
@[simp] theorem releaseReset_mem : (releaseReset s).mem = s.mem := rfl
@[simp] theorem releaseReset_busErrs : (releaseReset s).busErrs = s.busErrs := rfl
@[simp] theorem releaseReset_inReset : (releaseReset s).inReset = false := rfl
@[simp] theorem releaseReset_inputs : (releaseReset s).inputs = s.inputs := rfl
@[simp] theorem releaseReset_readData : (releaseReset s).readData = s.readData := rfl
@[simp] theorem releaseReset_runMem : (releaseReset s).runMem = s.runMem := rfl
@[simp] theorem releaseReset_racedIn : (releaseReset s).racedIn = s.racedIn := rfl
@[simp] theorem releaseReset_racedOut : (releaseReset s).racedOut = s.racedOut := rfl
@[simp] theorem releaseReset_freeCount : (releaseReset s).freeCount = s.freeCount := rfl

end Sys2Proof.Machine
end

