-- ==== Sys2Proof/Laws/Ops.lean ====
section
/-! SUPPORT. What each shared operation can do, said once: inversion lemmas that later proofs cite instead of unfolding
the operation. -/

namespace Sys2Proof.Machine

theorem whenIdle_idle (act : State → State) {s : State} (h : s.busy = false) : whenIdle act s = act s := by
  simp [whenIdle, h]

theorem whenIdle_busy (act : State → State) {s : State} (h : s.busy = true) : whenIdle act s = s.setOvr := by
  simp [whenIdle, h]

/-- A RUN's three ends (R109): rejected by a check, an empty run, a start; the checks passed in the last two. -/
theorem cmdRun_cases (s : State) :
    (∃ (c : BitVec 4) (v : Word), cmdRun s = complete c v (clearProgress s) ∧
      ((c = 2 ∧ v.toNat % 4 ≠ 0 ∧ (v = s.src ∨ v = s.dst)) ∨
        ((c = 3 ∨ c = 4) ∧ v.toNat % 4 = 0 ∧ (v = s.src ∨ v = s.dst)))) ∨
    (cmdRun s = complete 0 0 (clearProgress s) ∧ s.len = 0) ∨
    (cmdRun s = startRun (clearProgress s) ∧ s.len ≠ 0 ∧ s.src.toNat % 4 = 0 ∧ s.dst.toNat % 4 = 0 ∧
      regionEnd s.src s.len ≤ addrLimit ∧ regionEnd s.dst s.len ≤ addrLimit ∧
      (regionEnd s.src s.len ≤ s.dst.toNat ∨ regionEnd s.dst s.len ≤ s.src.toNat)) := by
  simp only [cmdRun]
  split_ifs with h1 h2 h3 h4 h5 h6
  · exact .inl ⟨2, s.src, rfl, .inl ⟨rfl, by simpa [misaligned] using h1, .inl rfl⟩⟩
  · exact .inl ⟨2, s.dst, rfl, .inl ⟨rfl, by simpa [misaligned] using h2, .inr rfl⟩⟩
  · exact .inl ⟨3, s.src, rfl, .inr ⟨.inl rfl, by simpa [misaligned] using h1, .inl rfl⟩⟩
  · exact .inl ⟨3, s.dst, rfl, .inr ⟨.inl rfl, by simpa [misaligned] using h2, .inr rfl⟩⟩
  · exact .inl ⟨4, s.dst, rfl, .inr ⟨.inr rfl, by simpa [misaligned] using h2, .inr rfl⟩⟩
  · exact .inr (.inl ⟨rfl, h6⟩)
  · have hn : 0 < s.len.toNat := Nat.pos_of_ne_zero fun h => h6 (by simpa [BitVec.toNat_eq] using h)
    simp only [misaligned, outOfRange, overlaps, bne_iff_ne, ne_eq, not_not, decide_eq_true_eq, not_lt] at h1 h2 h3 h4 h5
    exact .inr (.inr ⟨rfl, h6, h1, h2, h3, h4, by omega⟩)

/-- The engine step's ends (R116–R119), with what each needed. -/
theorem engineStep_cases {s t : State} (h : engineStep s = .next t) :
    s.readAddr + 4 ≤ addrLimit ∧
    ((s.busError .read s.readAddr = true ∧ t = readError s) ∨
     (s.busError .read s.readAddr = false ∧ s.writeAddr + 4 ≤ addrLimit ∧
      ((s.busError .write s.writeAddr = true ∧ t = writeError s) ∨
       (s.busError .write s.writeAddr = false ∧
        ((s.count + 1 = s.len ∧ t = endRun 0 0 (advance s (s.inputWord s.index))) ∨
         (s.count + 1 ≠ s.len ∧ t = advance s (s.inputWord s.index))))))) := by
  have hadv : ∀ r, (advance s r).count = s.count + 1 := by
    intro r; simp only [advance]; split <;> rfl
  simp only [engineStep, hadv _] at h
  split_ifs at h with h1 h2 h3 h4 h5 <;> cases h
  · exact ⟨not_lt.mp h1, .inl ⟨h2, rfl⟩⟩
  · exact ⟨not_lt.mp h1, .inr ⟨by simpa using h2, not_lt.mp h3, .inl ⟨h4, rfl⟩⟩⟩
  · exact ⟨not_lt.mp h1, .inr ⟨by simpa using h2, not_lt.mp h3, .inr ⟨by simpa using h4, .inl ⟨h5, rfl⟩⟩⟩⟩
  · exact ⟨not_lt.mp h1, .inr ⟨by simpa using h2, not_lt.mp h3, .inr ⟨by simpa using h4, .inr ⟨h5, rfl⟩⟩⟩⟩

/-- Every instruction answers a next state. -/
theorem exec_next (i : Instr) (s : State) : ∃ t, exec i s = .next t := by
  cases i <;> exact ⟨_, rfl⟩

/-- What a command that is not dropped does (R106). -/
theorem command_cases (v : Word) (s : State) :
    (v = 0 ∧ command v s = s) ∨ (v = 1 ∧ command v s = cmdRun s) ∨
    (v ≠ 0 ∧ v ≠ 1 ∧ command v s = complete 1 v s) := by
  simp only [command]
  split_ifs with h0 h1
  · exact .inl ⟨h0, rfl⟩
  · exact .inr (.inl ⟨h1, rfl⟩)
  · exact .inr (.inr ⟨h0, h1, rfl⟩)

/-- What an instruction can do: a read, nothing, a write of CTRL or STATUS, a frozen write dropped while BUSY, an operand
written while idle, an illegal command ended, a RUN issued. -/
theorem exec_cases {i : Instr} {s t : State} (h : exec i s = .next t) :
    (∃ v, t = s.returnWord v ∧ frozenWhileBusy i = false) ∨ (t = s ∧ (s.busy = true → frozenWhileBusy i = false)) ∨
    (∃ d, i = .wrCtrl d ∧ t = { s with irqEn := d.getLsbD 0 }) ∨
    (∃ d, i = .wrStatus d ∧ t = s.clearStatus d) ∨
    (s.busy = true ∧ frozenWhileBusy i = true ∧ t = s.setOvr) ∨
    (s.busy = false ∧
      ((∃ d, t = { s with coef := d } ∨ t = { s with src := d } ∨ t = { s with dst := d } ∨ t = { s with len := d }) ∨
       (∃ v, t = complete 1 v s ∧ (i = .illegal v ∨ i = .wrCmd v ∧ v ≠ 0 ∧ v ≠ 1)) ∨
       ((i = .run ∨ i = .wrCmd 1) ∧ t = cmdRun s))) := by
  rcases Bool.eq_false_or_eq_true s.busy with hb | hb
  · cases i <;> (injection h with h; subst h)
    case wrCtrl d => exact .inr (.inr (.inl ⟨d, rfl, rfl⟩))
    case wrStatus d => exact .inr (.inr (.inr (.inl ⟨d, rfl, rfl⟩)))
    all_goals first
      | exact .inl ⟨_, rfl, rfl⟩
      | exact .inr (.inl ⟨rfl, fun _ => rfl⟩)
      | exact .inr (.inr (.inr (.inr (.inl ⟨hb, rfl, whenIdle_busy _ hb⟩))))
  · cases i <;> (injection h with h; subst h)
    case wrCtrl d => exact .inr (.inr (.inl ⟨d, rfl, rfl⟩))
    case wrStatus d => exact .inr (.inr (.inr (.inl ⟨d, rfl, rfl⟩)))
    case nop => exact .inr (.inl ⟨whenIdle_idle _ hb, fun h => by rw [hb] at h; cases h⟩)
    case run => exact .inr (.inr (.inr (.inr (.inr ⟨hb, .inr (.inr ⟨.inl rfl, whenIdle_idle _ hb⟩)⟩))))
    case illegal v => exact .inr (.inr (.inr (.inr (.inr ⟨hb, .inr (.inl ⟨v, whenIdle_idle _ hb, .inl rfl⟩)⟩))))
    case wrCmd v =>
      rw [whenIdle_idle _ hb]
      rcases command_cases v s with ⟨-, h⟩ | ⟨rfl, h⟩ | ⟨h0, h1, h⟩ <;> rw [h]
      · exact .inr (.inl ⟨rfl, fun h => by rw [hb] at h; cases h⟩)
      · exact .inr (.inr (.inr (.inr (.inr ⟨hb, .inr (.inr ⟨.inr rfl, rfl⟩)⟩))))
      · exact .inr (.inr (.inr (.inr (.inr ⟨hb, .inr (.inl ⟨v, rfl, .inr ⟨rfl, h0, h1⟩⟩)⟩))))
    case wrCoef d => exact .inr (.inr (.inr (.inr (.inr ⟨hb, .inl ⟨d, .inl (whenIdle_idle _ hb)⟩⟩))))
    case wrSrc d => exact .inr (.inr (.inr (.inr (.inr ⟨hb, .inl ⟨d, .inr (.inl (whenIdle_idle _ hb))⟩⟩))))
    case wrDst d => exact .inr (.inr (.inr (.inr (.inr ⟨hb, .inl ⟨d, .inr (.inr (.inl (whenIdle_idle _ hb)))⟩⟩))))
    case wrLen d => exact .inr (.inr (.inr (.inr (.inr ⟨hb, .inl ⟨d, .inr (.inr (.inr (whenIdle_idle _ hb)))⟩⟩))))
    all_goals first
      | exact .inl ⟨_, rfl, rfl⟩
      | exact .inr (.inl ⟨rfl, fun h => by rw [hb] at h; cases h⟩)

/-- A step takes the first input of the schedule, or the engine's turn. -/
theorem step_nil {s : State} (h : s.inputs = []) : step s = engineTurn s := by simp [step, h]

theorem step_cons {s : State} {x : Input} {rest : List Input} (h : s.inputs = x :: rest) :
    step s = takeInput x { s with inputs := rest } := by simp [step, h]

/-- A host access that answers a next state is an instruction's (R81). -/
theorem hostAccess_cases {a : HostAccess} {s t : State} (h : hostAccess a s = .next t) :
    s.inReset = false ∧ a.host = 0 ∧ a.bytes = 4 ∧ a.off < 64 ∧
      ∃ i, decode (.bus a.selector a.data) = .ok i ∧ exec i s = .next t := by
  simp only [hostAccess, refusalBefore, runPacket] at h
  split_ifs at h with h1 h2 h3 h4
  revert h
  cases hd : decode (.bus a.selector a.data) with
  | error e => intro h; cases h
  | ok i => intro h; exact ⟨by simpa using h1, not_not.mp h2, not_not.mp h3, not_le.mp h4, i, rfl, h⟩

theorem hostCommand_cases {v : Word} {s t : State} (h : hostCommand v s = .next t) :
    s.inReset = false ∧ exec (decodeCmd v) s = .next t := by
  simp only [hostCommand, runPacket, decode] at h
  split_ifs at h with h1
  exact ⟨by simpa using h1, h⟩

/-- What moving on to the next sample does. -/
theorem advance_eq (s : State) (r : Word) :
    advance s r =
      { s with
        mem := s.mem.setWord s.writeAddr (s.outputWord s.index r), prev := r, count := s.count + 1,
        freeCount := if s.outputRaced s.index then s.freeCount + 1 else s.freeCount } := by
  simp only [advance]
  split <;> rfl

/-- The fields that no engine step changes. -/
theorem engineStep_keeps {s t : State} (h : engineStep s = .next t) :
    t.irqEn = s.irqEn ∧ t.ovr = s.ovr ∧ t.coef = s.coef ∧ t.src = s.src ∧ t.dst = s.dst ∧ t.len = s.len ∧
    t.busErrs = s.busErrs ∧ t.inReset = s.inReset ∧ t.inputs = s.inputs ∧ t.readData = s.readData := by
  obtain ⟨-, ⟨-, rfl⟩ | ⟨-, -, ⟨-, rfl⟩ | ⟨-, ⟨-, rfl⟩ | ⟨-, rfl⟩⟩⟩⟩ := engineStep_cases h
  · exact ⟨rfl, rfl, rfl, rfl, rfl, rfl, rfl, rfl, rfl, rfl⟩
  · exact ⟨rfl, rfl, rfl, rfl, rfl, rfl, rfl, rfl, rfl, rfl⟩
  all_goals rw [advance_eq]; exact ⟨rfl, rfl, rfl, rfl, rfl, rfl, rfl, rfl, rfl, rfl⟩

/-- An engine step of a run leaves it running or sets DONE. -/
theorem engineStep_ends {s t : State} (h : engineStep s = .next t) :
    t.busy = s.busy ∨ (t.busy = false ∧ t.done = true) := by
  obtain ⟨-, ⟨-, rfl⟩ | ⟨-, -, ⟨-, rfl⟩ | ⟨-, ⟨-, rfl⟩ | ⟨-, rfl⟩⟩⟩⟩ := engineStep_cases h
  any_goals exact .inr ⟨rfl, rfl⟩
  rw [advance_eq]
  exact .inl rfl

theorem clobberDone_eq (s : State) (j : Nat) : s.clobberDone j = { s with mem := (s.clobberDone j).mem } := by
  simp only [State.clobberDone]
  split <;> rfl

theorem storeByte_eq (a : Nat) (b : Byte) (s : State) :
    storeByte a b s =
      { s with
        mem := (storeByte a b s).mem, racedIn := (storeByte a b s).racedIn, racedOut := (storeByte a b s).racedOut } := by
  simp only [storeByte, State.clobberDone]
  split_ifs <;> rfl

theorem storeBytes_eq (bytes : List Byte) (a : Nat) (s : State) :
    storeBytes a bytes s =
      { s with
        mem := (storeBytes a bytes s).mem, racedIn := (storeBytes a bytes s).racedIn,
        racedOut := (storeBytes a bytes s).racedOut } := by
  induction bytes generalizing a s with
  | nil => rfl
  | cons b bytes ih => simp only [storeBytes]; rw [ih, storeByte_eq]

/-- A write of data memory through the platform changes memory and the record of races, nothing else. -/
theorem hostStore_eq {a : Nat} {bytes : List Byte} {s t : State} (h : hostStore a bytes s = .next t) :
    t = { s with mem := t.mem, racedIn := t.racedIn, racedOut := t.racedOut, freeCount := t.freeCount } := by
  simp only [hostStore] at h
  split_ifs at h <;> cases h <;> rw [storeBytes_eq] <;> rfl

/-- A read of data memory through the platform changes only the word read. -/
theorem hostLoad_eq {a : Nat} {s t : State} (h : hostLoad a s = .next t) :
    t = { s with readData := t.readData, freeCount := t.freeCount } := by
  simp only [hostLoad] at h
  split_ifs at h <;> cases h <;> rfl

/-- What a step can be: the engine's turn (a step of a run, or nothing), an instruction of the host, or an event of the
platform. -/
theorem step_cases {s t : State} (h : step s = .next t) :
    ∃ r, (s.inputs = r ∨ ∃ x, s.inputs = x :: r) ∧
    ((s.busy = true ∧ engineStep { s with inputs := r } = .next t ∧ (s.inputs = [] ∨ s.inputs = .engine :: r)) ∨
     (s.busy = false ∧ t = { s with inputs := r } ∧ (s.inputs = [] ∨ s.inputs = .engine :: r)) ∨
     (∃ a i, s.inputs = .access a :: r ∧ s.inReset = false ∧ a.off < 64 ∧
       decode (.bus a.selector a.data) = .ok i ∧ exec i { s with inputs := r } = .next t) ∨
     (∃ v, s.inputs = .command v :: r ∧ s.inReset = false ∧ exec (decodeCmd v) { s with inputs := r } = .next t) ∨
     (∃ f, s.inputs = .assertReset f :: r ∧ t = assertReset f { s with inputs := r }) ∨
     (s.inputs = .releaseReset :: r ∧ t = { s with inputs := r, inReset := false }) ∨
     (∃ a bytes, s.inputs = .memWrite a bytes :: r ∧ hostStore a bytes { s with inputs := r } = .next t) ∨
     (∃ a, s.inputs = .memRead a :: r ∧ hostLoad a { s with inputs := r } = .next t) ∨
     (∃ e, s.inputs = .busErrors e :: r ∧ t = { s with inputs := r, busErrs := e })) := by
  rcases hi : s.inputs with _ | ⟨x, r⟩
  · rw [step_nil hi] at h
    have hs : s = { s with inputs := [] } := by rw [← hi]
    refine ⟨[], .inl rfl, ?_⟩
    rw [← hs]
    simp only [engineTurn] at h
    split_ifs at h with hb
    · exact .inl ⟨hb, h, .inl rfl⟩
    · cases h
      exact .inr (.inl ⟨by simpa using hb, rfl, .inl rfl⟩)
  · rw [step_cons hi] at h
    refine ⟨r, .inr ⟨x, rfl⟩, ?_⟩
    cases x with
    | access a =>
      obtain ⟨h1, -, -, h2, i, h3, h4⟩ := hostAccess_cases h
      exact .inr (.inr (.inl ⟨a, i, rfl, h1, h2, h3, h4⟩))
    | command v =>
      obtain ⟨h1, h2⟩ := hostCommand_cases h
      exact .inr (.inr (.inr (.inl ⟨v, rfl, h1, h2⟩)))
    | engine =>
      simp only [takeInput, engineTurn] at h
      split_ifs at h with hb
      · exact .inl ⟨hb, h, .inr rfl⟩
      · injection h with h
        exact .inr (.inl ⟨by simpa using hb, h.symm, .inr rfl⟩)
    | assertReset f =>
      injection h with h
      exact .inr (.inr (.inr (.inr (.inl ⟨f, rfl, h.symm⟩))))
    | releaseReset =>
      injection h with h
      exact .inr (.inr (.inr (.inr (.inr (.inl ⟨rfl, h.symm⟩)))))
    | memWrite a bytes => exact .inr (.inr (.inr (.inr (.inr (.inr (.inl ⟨a, bytes, rfl, h⟩))))))
    | memRead a => exact .inr (.inr (.inr (.inr (.inr (.inr (.inr (.inl ⟨a, rfl, h⟩)))))))
    | busErrors e =>
      injection h with h
      exact .inr (.inr (.inr (.inr (.inr (.inr (.inr (.inr ⟨e, rfl, h.symm⟩)))))))

end Sys2Proof.Machine
end

