-- ==== Sys2Proof/Laws/PerInstr.lean ====
section
/-! SUPPORT. Statements about every instruction as syntax, one lemma per constructor (LAWS.json). -/

namespace Sys2Proof.Laws.AlignedSelector

/-- The selector of a host transaction is at a multiple of 4 (R65, R66). -/
def Statement (i : Instr) : Prop :=
  match encode i with
  | .bus sel _ => (selOff sel).toNat % 4 = 0
  | .cmd _ => True

theorem nop : Statement .nop := trivial
theorem run : Statement .run := trivial
theorem illegal (v : Word) : Statement (.illegal v) := trivial
theorem rdId : Statement .rdId := rfl
theorem rdCtrl : Statement .rdCtrl := rfl
theorem rdStatus : Statement .rdStatus := rfl
theorem rdCmd : Statement .rdCmd := rfl
theorem rdCoef : Statement .rdCoef := rfl
theorem rdSrc : Statement .rdSrc := rfl
theorem rdDst : Statement .rdDst := rfl
theorem rdLen : Statement .rdLen := rfl
theorem rdCount : Statement .rdCount := rfl
theorem rdPrev : Statement .rdPrev := rfl
theorem rdErrInfo : Statement .rdErrInfo := rfl
theorem rdRsvd : Statement .rdRsvd := rfl
theorem rdRsvdHi (k : BitVec 2) : Statement (.rdRsvdHi k) := by
  revert k
  show ∀ k : BitVec 2, (selOff (selOf false (0b11#2 ++ k ++ 0b00#2))).toNat % 4 = 0
  decide
theorem wrId (d : Word) : Statement (.wrId d) := rfl
theorem wrCtrl (d : Word) : Statement (.wrCtrl d) := rfl
theorem wrStatus (d : Word) : Statement (.wrStatus d) := rfl
theorem wrCmd (d : Word) : Statement (.wrCmd d) := rfl
theorem wrCoef (d : Word) : Statement (.wrCoef d) := rfl
theorem wrSrc (d : Word) : Statement (.wrSrc d) := rfl
theorem wrDst (d : Word) : Statement (.wrDst d) := rfl
theorem wrLen (d : Word) : Statement (.wrLen d) := rfl
theorem wrCount (d : Word) : Statement (.wrCount d) := rfl
theorem wrPrev (d : Word) : Statement (.wrPrev d) := rfl
theorem wrErrInfo (d : Word) : Statement (.wrErrInfo d) := rfl
theorem wrRsvd (d : Word) : Statement (.wrRsvd d) := rfl
theorem wrRsvdHi (k : BitVec 2) (d : Word) : Statement (.wrRsvdHi k d) := by
  revert k
  show ∀ k : BitVec 2, (selOff (selOf true (0b11#2 ++ k ++ 0b00#2))).toNat % 4 = 0
  decide

end Sys2Proof.Laws.AlignedSelector
end

