-- ==== Sys2Proof/Laws/Races.lean ====
section
/-! SUPPORT. Writes of data memory by another master during a run (R58): which outputs they race, which bytes they
change. -/

namespace Sys2Proof.Machine

/-- What the record of races holds after one sample joins it. -/
theorem addIndex_contains (k j : Nat) (l : List Nat) :
    (addIndex k l).contains j = (j == k || l.contains j) := by
  simp only [addIndex]
  split_ifs with h
  · cases hj : j == k
    · simp
    · rw [beq_iff_eq.mp hj, h]; rfl
  · rfl

/-- An output word that becomes any value is one the run has written, and no other byte changes. -/
theorem clobberDone_byteAt (s : State) {j c : Nat}
    (h : c < s.dst.toNat + 4 * j ∨ s.dst.toNat + 4 * (j + 1) ≤ c ∨ s.count.toNat ≤ j) :
    (s.clobberDone j).mem.byteAt c = s.mem.byteAt c := by
  by_cases hj : j < s.index
  · have hj' : j < s.count.toNat := hj
    have hc : c < sampleAddr s.dst j ∨ sampleAddr s.dst j + 4 ≤ c := by simp only [sampleAddr]; omega
    simp only [State.clobberDone]
    rw [if_pos hj]
    exact Memory.byteAt_setWord_ne _ _ hc
  · simp only [State.clobberDone]
    rw [if_neg hj]

theorem coversSample_one (a : Nat) (base : Word) (j : Nat) :
    coversSample a 1 base j ↔ base.toNat + 4 * j ≤ a ∧ a < base.toNat + 4 * (j + 1) :=
  ⟨fun ⟨c, h1, h2⟩ => by omega, fun h => ⟨a, by omega, h⟩⟩

theorem coversSample_succ (a n : Nat) (base : Word) (j : Nat) :
    coversSample a (n + 1) base j ↔ coversSample a 1 base j ∨ coversSample (a + 1) n base j := by
  constructor
  · rintro ⟨c, h1, h2⟩
    by_cases h : c = a
    · exact .inl ⟨c, by omega, h2⟩
    · exact .inr ⟨c, by omega, h2⟩
  · rintro (⟨c, h1, h2⟩ | ⟨c, h1, h2⟩) <;> exact ⟨c, by omega, h2⟩

theorem writeAffects_succ (s : State) (a n j : Nat) :
    s.writeAffects a (n + 1) j ↔ s.writeAffects a 1 j ∨ s.writeAffects (a + 1) n j := by
  simp only [State.writeAffects, coversSample_succ a n]
  tauto

/-- The three things a byte written during a run can do (R58): race an input word, race an output word, or neither. -/
theorem storeByte_src {s : State} {a : Nat} {b : Byte} (hb : s.busy = true) (h : inRegion s.src s.len a = true) :
    storeByte a b s =
      (({ s with mem := s.mem.set a b, racedIn := addIndex (sampleOf s.src a) s.racedIn } : State).clobberDone
        (sampleOf s.src a)).clobberDone (sampleOf s.src a + 1) := by simp [storeByte, hb, h]

theorem storeByte_dst {s : State} {a : Nat} {b : Byte} (hb : s.busy = true) (h1 : inRegion s.src s.len a = false)
    (h : inRegion s.dst s.len a = true) :
    storeByte a b s =
      { s.clobber .racedOutput (sampleAddr s.dst (sampleOf s.dst a)) (sampleOf s.dst a) with
        racedOut := addIndex (sampleOf s.dst a) s.racedOut } := by simp [storeByte, hb, h, h1]

theorem storeByte_plain {s : State} {a : Nat} {b : Byte} (h1 : inRegion s.src s.len a = false)
    (h : inRegion s.dst s.len a = false) : storeByte a b s = { s with mem := s.mem.set a b } := by simp [storeByte, h, h1]

theorem clobberDone_twice_eq (s : State) (j j' : Nat) :
    (s.clobberDone j).clobberDone j' = { s with mem := ((s.clobberDone j).clobberDone j').mem } := by
  simp only [State.clobberDone]
  split_ifs <;> rfl

/-- The two propositional steps of `storeByte_outputRaced`. -/
theorem raced_by_input_byte {A B C P Q P' Q' E z : Prop} (hE : ¬ E) (hP : P ↔ P') (hQ : (z ∧ Q) ↔ Q') :
    ((A ∨ (P ∨ B)) ∨ (z ∧ (Q ∨ C))) ↔
      (((A ∨ B) ∨ (z ∧ C)) ∨ (E ∨ P' ∨ Q')) := by rw [← hQ, ← hP]; tauto

theorem raced_by_output_byte {A B C P P' F G : Prop} (hF : ¬ F) (hG : ¬ G) (hP : P ↔ P') :
    (((P ∨ A) ∨ B) ∨ C) ↔ (((A ∨ B) ∨ C) ∨ (P' ∨ F ∨ G)) := by rw [← hP]; tauto
/-- Which outputs are raced after one byte is written during a run (R58). -/
theorem storeByte_outputRaced {s : State} (hb : s.busy = true) (a : Nat) (b : Byte) (j : Nat)
    (hd : regionEnd s.src s.len ≤ s.dst.toNat ∨ regionEnd s.dst s.len ≤ s.src.toNat) :
    (storeByte a b s).outputRaced j = true ↔ s.outputRaced j = true ∨ s.writeAffects a 1 j := by
  simp only [regionEnd] at hd
  simp only [State.writeAffects, coversSample_one]
  rcases Bool.eq_false_or_eq_true (inRegion s.src s.len a) with h1 | h1
  · rw [storeByte_src hb h1, clobberDone_twice_eq]
    rw [inRegion_iff] at h1
    simp only [State.outputRaced, addIndex_contains, Bool.or_eq_true, Bool.and_eq_true, decide_eq_true_eq,
      beq_iff_eq, sampleOf]
    have e1 : j = (a - s.src.toNat) / 4 ↔
        (j < s.len.toNat ∧ s.src.toNat + 4 * j ≤ a ∧ a < s.src.toNat + 4 * (j + 1)) := by omega
    have e2 : (0 < j ∧ j - 1 = (a - s.src.toNat) / 4) ↔
        (0 < j ∧ j - 1 < s.len.toNat ∧ s.src.toNat + 4 * (j - 1) ≤ a ∧ a < s.src.toNat + 4 * (j - 1 + 1)) := by omega
    have e3 : ¬ (j < s.len.toNat ∧ s.dst.toNat + 4 * j ≤ a ∧ a < s.dst.toNat + 4 * (j + 1)) := by omega
    exact raced_by_input_byte e3 e1 e2
  · have n1 : ¬ (j < s.len.toNat ∧ s.src.toNat + 4 * j ≤ a ∧ a < s.src.toNat + 4 * (j + 1)) := by
      rintro ⟨x, y⟩; have := (inRegion_iff s.src s.len a).mpr (by omega); rw [h1] at this; cases this
    have n2 : ¬ (0 < j ∧ j - 1 < s.len.toNat ∧ s.src.toNat + 4 * (j - 1) ≤ a ∧ a < s.src.toNat + 4 * (j - 1 + 1)) := by
      rintro ⟨x, y⟩; have := (inRegion_iff s.src s.len a).mpr (by omega); rw [h1] at this; cases this
    rcases Bool.eq_false_or_eq_true (inRegion s.dst s.len a) with h2 | h2
    · rw [storeByte_dst hb h1 h2]
      rw [inRegion_iff] at h2
      simp only [State.outputRaced, addIndex_contains, Bool.or_eq_true, Bool.and_eq_true, decide_eq_true_eq,
        beq_iff_eq, sampleOf, State.clobber]
      have e1 : j = (a - s.dst.toNat) / 4 ↔
          (j < s.len.toNat ∧ s.dst.toNat + 4 * j ≤ a ∧ a < s.dst.toNat + 4 * (j + 1)) := by omega
      exact raced_by_output_byte n1 n2 e1
    · rw [storeByte_plain h1 h2]
      have n3 : ¬ (j < s.len.toNat ∧ s.dst.toNat + 4 * j ≤ a ∧ a < s.dst.toNat + 4 * (j + 1)) := by
        rintro ⟨x, y⟩; have := (inRegion_iff s.dst s.len a).mpr (by omega); rw [h2] at this; cases this
      simp only [State.outputRaced, n1, n2, n3, or_false]

/-- What memory holds after one byte is written during a run: every byte that no affected output word holds. -/
theorem storeByte_byteAt {s : State} (hb : s.busy = true) (a : Nat) (b : Byte) {c : Nat}
    (hl : s.count.toNat ≤ s.len.toNat)
    (h : ∀ j < s.len.toNat, s.dst.toNat + 4 * j ≤ c → c < s.dst.toNat + 4 * (j + 1) →
      ¬ coversSample a 1 s.dst j ∧ ¬ (j < s.count.toNat ∧ s.writeAffects a 1 j)) :
    (storeByte a b s).mem.byteAt c = if c = a then b else s.mem.byteAt c := by
  simp only [State.writeAffects, coversSample_one] at h
  rcases Bool.eq_false_or_eq_true (inRegion s.src s.len a) with h1 | h1
  · rw [storeByte_src hb h1]
    rw [inRegion_iff] at h1
    have hk : s.src.toNat + 4 * sampleOf s.src a ≤ a ∧ a < s.src.toNat + 4 * (sampleOf s.src a + 1) := by
      simp only [sampleOf]; omega
    set k := sampleOf s.src a
    set u := ({ s with mem := s.mem.set a b, racedIn := addIndex k s.racedIn } : State) with hu
    have hw : ∀ j, (j = k ∨ j = k + 1) →
        c < s.dst.toNat + 4 * j ∨ s.dst.toNat + 4 * (j + 1) ≤ c ∨ s.count.toNat ≤ j := by
      intro j hj
      by_contra hc
      have hx := (h j (by omega) (by omega) (by omega)).2
      apply hx
      refine ⟨by omega, .inr ?_⟩
      rcases hj with rfl | rfl
      · exact .inl ⟨by omega, hk⟩
      · exact .inr ⟨by omega, by omega, by simpa using hk⟩
    have e := clobberDone_eq u k
    rw [clobberDone_byteAt (u.clobberDone k) (by rw [e]; exact hw _ (.inr rfl)), clobberDone_byteAt u (hw _ (.inl rfl))]
    exact Memory.byteAt_set _ _ _ _
  · rcases Bool.eq_false_or_eq_true (inRegion s.dst s.len a) with h2 | h2
    · rw [storeByte_dst hb h1 h2]
      rw [inRegion_iff] at h2
      have hk : s.dst.toNat + 4 * sampleOf s.dst a ≤ a ∧ a < s.dst.toNat + 4 * (sampleOf s.dst a + 1) := by
        simp only [sampleOf]; omega
      set k := sampleOf s.dst a
      have hx : c < s.dst.toNat + 4 * k ∨ s.dst.toNat + 4 * k + 4 ≤ c := by
        by_contra hc
        exact (h k (by omega) (by omega) (by omega)).1 hk
      rw [if_neg (by omega)]
      exact Memory.byteAt_setWord_ne _ _ hx
    · rw [storeByte_plain h1 h2]
      exact Memory.byteAt_set _ _ _ _

/-- What a write of any width during a run does (R58): the outputs it races, the bytes that land, and those that stay. -/
theorem storeBytes_spec (bs : List Byte) (a : Nat) (s : State) (hb : s.busy = true)
    (hd : regionEnd s.src s.len ≤ s.dst.toNat ∨ regionEnd s.dst s.len ≤ s.src.toNat)
    (hl : s.count.toNat ≤ s.len.toNat) :
    (∀ j, (storeBytes a bs s).outputRaced j = true ↔ s.outputRaced j = true ∨ s.writeAffects a bs.length j) ∧
    (∀ (k : Nat) (h : k < bs.length), (a + k < s.dst.toNat ∨ s.dst.toNat + 4 * s.len.toNat ≤ a + k) →
      (storeBytes a bs s).mem.byteAt (a + k) = bs[k]) ∧
    (∀ c, (c < a ∨ a + bs.length ≤ c) →
      (∀ j < s.len.toNat, s.dst.toNat + 4 * j ≤ c → c < s.dst.toNat + 4 * (j + 1) →
        ¬ coversSample a bs.length s.dst j ∧ ¬ (j < s.count.toNat ∧ s.writeAffects a bs.length j)) →
      (storeBytes a bs s).mem.byteAt c = s.mem.byteAt c) := by
  induction bs generalizing a s with
  | nil =>
    refine ⟨fun j => ?_, fun k h => by simp at h, fun _ _ _ => rfl⟩
    simp only [storeBytes, List.length_nil, State.writeAffects, coversSample]
    constructor
    · exact .inl
    · rintro (h | ⟨-, c, h, -⟩ | ⟨-, c, h, -⟩ | ⟨-, -, c, h, -⟩)
      · exact h
      all_goals omega
  | cons b bs ih =>
    have e := storeByte_eq a b s
    set u := storeByte a b s with hu
    have hb' : u.busy = true := by rw [e]; exact hb
    have hsrc : u.src = s.src := by rw [e]
    have hdst : u.dst = s.dst := by rw [e]
    have hlen : u.len = s.len := by rw [e]
    have hcnt : u.count = s.count := by rw [e]
    have hwa : ∀ a n j, u.writeAffects a n j ↔ s.writeAffects a n j := by
      intro a n j; simp only [State.writeAffects, hsrc, hdst, hlen]
    obtain ⟨i1, i2, i3⟩ := ih (a + 1) u hb' (by rw [hsrc, hdst, hlen]; exact hd) (by rw [hcnt, hlen]; exact hl)
    simp only [hdst, hlen, hcnt, hwa] at i1 i2 i3
    simp only [storeBytes, List.length_cons]
    refine ⟨fun j => ?_, fun k h hk => ?_, fun c hc h => ?_⟩
    · rw [i1, hu, storeByte_outputRaced hb a b j hd, writeAffects_succ s a bs.length j, or_assoc]
    · cases k with
      | zero =>
        rw [i3 _ (by omega) (by intro j h1 h2 h3; omega), hu, storeByte_byteAt hb a b hl (by intro j h1 h2 h3; omega)]; simp
      | succ k =>
        have := i2 k (by simpa using h) (by omega)
        rw [show a + (k + 1) = a + 1 + k by omega, this]; rfl
    · rw [i3 c (by omega), hu, storeByte_byteAt hb a b hl, if_neg (by omega)]
      · intro j h1 h2 h3
        have := h j h1 h2 h3
        rw [coversSample_succ a bs.length, writeAffects_succ s a bs.length] at this; tauto
      · intro j h1 h2 h3
        have := h j h1 h2 h3
        rw [coversSample_succ a bs.length, writeAffects_succ s a bs.length] at this; tauto

end Sys2Proof.Machine
end

