-- ==== Sys2Proof/Machine/HostProgram.lean ====
section
/-! DEFINITION. The host program notation of 30_encoding.md R76 and R77: each line as the inputs it has the host make.
`poll` is a loop in the host, so one round of it is one read and the test that ends it. -/

namespace Sys2Proof.Machine

/-- The registers by name (R19). -/
inductive RegName where
  | id | ctrl | status | cmd | coef | src | dst | len | count | prev | errInfo
deriving DecidableEq, Repr

/-- The offset of a register (R19). -/
def RegName.offset : RegName → Nat
  | .id => 0x00
  | .ctrl => 0x04
  | .status => 0x08
  | .cmd => 0x0C
  | .coef => 0x10
  | .src => 0x14
  | .dst => 0x18
  | .len => 0x1C
  | .count => 0x20
  | .prev => 0x24
  | .errInfo => 0x28

/-- A line of a host program (R76, R77). -/
inductive HostLine where
  | wr (r : RegName) (v : Word)
  | rd (r : RegName)
  | mw (addr : Nat) (v : Word)
  | mr (addr : Nat)
  | nop
  | run
  | setup (c s d n : Word)
  | clrDone
  | clrOvr
  | irqOn
  | irqOff
deriving DecidableEq, Repr

/-- `HostWrite(offset(REG), v)` by the block's host (R11, R76). -/
def writeReg (r : RegName) (v : Word) : Input := .access ⟨0, 4, true, r.offset, v⟩

/-- `HostRead(offset(REG))` by the block's host (R11, R76). -/
def readReg (r : RegName) : Input := .access ⟨0, 4, false, r.offset, 0⟩

/-- The bytes of a word in memory order (R45). -/
def wordBytes (v : Word) : List Byte :=
  [v.extractLsb' 0 8, v.extractLsb' 8 8, v.extractLsb' 16 8, v.extractLsb' 24 8]

/-- The expansion of a line (R76, R77). -/
def HostLine.inputs : HostLine → List Input
  | .wr r v => [writeReg r v]
  | .rd r => [readReg r]
  | .mw a v => [.memWrite a (wordBytes v)]
  | .mr a => [.memRead a]
  | .nop => [writeReg .cmd 0x00000000]
  | .run => [writeReg .cmd 0x00000001]
  | .setup c s d n => [writeReg .coef c, writeReg .src s, writeReg .dst d, writeReg .len n]
  | .clrDone => [writeReg .status 0x00000002]
  | .clrOvr => [writeReg .status 0x00000004]
  | .irqOn => [writeReg .ctrl 0x00000001]
  | .irqOff => [writeReg .ctrl 0x00000000]

/-- What ends `poll REG, mask, value` after a read of REG: `(t & mask) = value` (R76). -/
def pollEnds (mask value : Word) (s : State) : Bool :=
  match s.readData with
  | none => false
  | some t => t &&& mask == value

/-- The test of `wait_done`: `poll STATUS, 0x00000002, 0x00000002` (R77). -/
def waitDoneEnds (s : State) : Bool := pollEnds 0x00000002 0x00000002 s

end Sys2Proof.Machine
end

