-- ==== Sys2Proof/Tests/Slice0.lean ====
section
/-! SUPPORT. The model's own tests, their expected results taken from the spec (95_test_vectors.md by the vector's name,
or the rule named), and a witness for the hypotheses of every statement that has some. -/

namespace Sys2Proof.Tests

open Sys2Proof Sys2Proof.Machine

set_option Elab.async false

/-- The state a result holds, if it is a next state. -/
def after : Result → Option State
  | .next s => some s
  | .fault _ => none
  | .refused _ => none

/-- The refusal a result holds, if it is one. -/
def refusalIn : Result → Option Refusal
  | .next _ => none
  | .fault _ => none
  | .refused r => some r

/-- What a register read returns. -/
def readBack (r : Result) : Option Word := (after r).bind (·.readData)

/-- STATUS after an instruction or input. -/
def statusAfter (r : Result) : Option Word := (after r).map (·.statusWord)

/-- The input words of vector V1 and program P1. -/
def p1Mem : Memory :=
  [(0x1000, 0x3F800000), (0x1004, 0x40000000), (0x1008, 0x40400000), (0x100C, 0xBF800000), (0x1010, 0x3F000000)].foldl
    (fun m (x : Nat × Word) => Memory.setWord m x.1 x.2) []

/-- Program P1 before its `run`. -/
def ready : State := { State.reset with coef := 0x3F7851EC, src := 0x1000, dst := 0x2000, len := 5, mem := p1Mem }

/-- An idle block with these operands. -/
def withOperands (src dst len : Word) : State := { State.reset with coef := 0x3F7851EC, src := src, dst := dst, len := len }

/-- Program P1 with COUNT and PREV as they stand before an engine step. -/
def running (count prev : Word) : State :=
  { ready with busy := true, count := count, prev := prev, runMem := p1Mem }

/-- An idle block whose STATUS reads 0x00000606 (RA5). -/
def afterError6 : State := { State.reset with done := true, ovr := true, errCode := 6, errInfo := 0x2010 }

/-- A run of one sample. -/
def ready1 : State := { ready with len := 1 }

/-! ## Encoding (R65, R67, R71) -/

theorem test_decode_commands :
    decode (.cmd 0b00000000000000000000000000000000) = .ok .nop ∧
    decode (.cmd 0b00000000000000000000000000000001) = .ok .run ∧
    decode (.cmd 0b00000000000000000000000000000010) = .ok (.illegal 2) ∧
    decode (.cmd 0b00000000000000000000000100000001) = .ok (.illegal 0x101) := ⟨rfl, rfl, rfl, rfl⟩

theorem test_decode_reads :
    decode (.bus 0b0000000 0) = .ok .rdId ∧ decode (.bus 0b0000100 0) = .ok .rdCtrl ∧
    decode (.bus 0b0001000 0) = .ok .rdStatus ∧ decode (.bus 0b0001100 0) = .ok .rdCmd ∧
    decode (.bus 0b0010000 0) = .ok .rdCoef ∧ decode (.bus 0b0010100 0) = .ok .rdSrc ∧
    decode (.bus 0b0011000 0) = .ok .rdDst ∧ decode (.bus 0b0011100 0) = .ok .rdLen ∧
    decode (.bus 0b0100000 0) = .ok .rdCount ∧ decode (.bus 0b0100100 0) = .ok .rdPrev ∧
    decode (.bus 0b0101000 0) = .ok .rdErrInfo ∧ decode (.bus 0b0101100 0) = .ok .rdRsvd ∧
    decode (.bus 0b0110000 0) = .ok (.rdRsvdHi 0) ∧ decode (.bus 0b0111100 0) = .ok (.rdRsvdHi 3) :=
  ⟨rfl, rfl, rfl, rfl, rfl, rfl, rfl, rfl, rfl, rfl, rfl, rfl, rfl, rfl⟩

theorem test_decode_writes :
    decode (.bus 0b1000000 9) = .ok (.wrId 9) ∧ decode (.bus 0b1000100 9) = .ok (.wrCtrl 9) ∧
    decode (.bus 0b1001000 9) = .ok (.wrStatus 9) ∧ decode (.bus 0b1001100 9) = .ok (.wrCmd 9) ∧
    decode (.bus 0b1010000 9) = .ok (.wrCoef 9) ∧ decode (.bus 0b1010100 9) = .ok (.wrSrc 9) ∧
    decode (.bus 0b1011000 9) = .ok (.wrDst 9) ∧ decode (.bus 0b1011100 9) = .ok (.wrLen 9) ∧
    decode (.bus 0b1100000 9) = .ok (.wrCount 9) ∧ decode (.bus 0b1100100 9) = .ok (.wrPrev 9) ∧
    decode (.bus 0b1101000 9) = .ok (.wrErrInfo 9) ∧ decode (.bus 0b1101100 9) = .ok (.wrRsvd 9) ∧
    decode (.bus 0b1110100 9) = .ok (.wrRsvdHi 1 9) ∧ decode (.bus 0b1111000 9) = .ok (.wrRsvdHi 2 9) :=
  ⟨rfl, rfl, rfl, rfl, rfl, rfl, rfl, rfl, rfl, rfl, rfl, rfl, rfl, rfl⟩

/-- R66, RA18: a read at offset 0x02. -/
theorem test_decode_unaligned : decode (.bus 0b0000010 0) = .error (.unalignedOffset 2) := rfl

/-- No two rows of the BUS table match one selector (R71). -/
theorem test_bus_rows_disjoint :
    ∀ n : Fin 128, (busTable.filter (·.hits (BitVec.ofFin n))).length ≤ 1 := by decide +kernel

theorem test_illegal_nop_word_is_ill_formed : (Instr.illegal 0).wellFormed = false := by decide
theorem test_illegal_run_word_is_ill_formed : (Instr.illegal 1).wellFormed = false := by decide

theorem test_table_words :
    decodeTableWord 8 0x50 = some (.wrCoef 0) ∧ decodeTableWord 32 1 = some .run ∧
    decodeTableWord 40 0x3F7851EC50 = some (.wrCoef 0x3F7851EC) ∧ decodeTableWord 8 0x02 = none := ⟨rfl, rfl, rfl, rfl⟩

/-! ## Register reads -/

/-- RA1: the sixteen slots of the reset state. -/
theorem test_reset_reads :
    (List.range 16).map (fun k => readBack (hostAccess ⟨0, 4, false, 4 * k, 0⟩ State.reset)) =
      some 0x50454D01 :: List.replicate 15 (some 0) := by decide +kernel

/-- R84: the example 0x00000202; during a run with OVR set, 0x00000005. -/
theorem test_rdStatus :
    readBack (exec .rdStatus { State.reset with done := true, errCode := 2 }) = some 0x202 ∧
    readBack (exec .rdStatus { State.reset with busy := true, ovr := true }) = some 5 := by decide
/-- RA2. -/
theorem test_rdCtrl : readBack (exec .rdCtrl { State.reset with irqEn := true }) = some 1 := by decide
/-- R86: a signalling NaN reads back as written. -/
theorem test_rdCoef : readBack (exec .rdCoef { State.reset with coef := 0x7FA00001 }) = some 0x7FA00001 := by decide
/-- R87. -/
theorem test_rdSrc : readBack (exec .rdSrc { State.reset with src := 0x1002 }) = some 0x1002 := by decide
/-- R88. -/
theorem test_rdDst : readBack (exec .rdDst { State.reset with dst := 0x2000 }) = some 0x2000 := by decide
/-- R89. -/
theorem test_rdLen : readBack (exec .rdLen { State.reset with len := 0xFFFFFFFF }) = some 0xFFFFFFFF := by decide
/-- R90. -/
theorem test_rdCount : readBack (exec .rdCount { State.reset with count := 5 }) = some 5 := by decide
/-- R91. -/
theorem test_rdPrev : readBack (exec .rdPrev { State.reset with prev := 0x3F000000 }) = some 0x3F000000 := by decide
/-- R92. -/
theorem test_rdErrInfo : readBack (exec .rdErrInfo { State.reset with errInfo := 0x102 }) = some 0x102 := by decide
/-- R85, R93. -/
theorem test_reads_of_zero :
    readBack (exec .rdCmd ready) = some 0 ∧ readBack (exec .rdRsvd ready) = some 0 ∧
    readBack (exec (.rdRsvdHi 3) ready) = some 0 := by decide
/-- R82: the value is constant, during a run too. -/
theorem test_rdId : readBack (exec .rdId (running 2 0)) = some 0x50454D01 := by decide

/-! ## Register writes -/

/-- RA3, RA4, RA14: writes that change nothing. -/
theorem test_writes_without_effect :
    after (exec (.wrId 0x12345678) ready) = some ready ∧ after (exec (.wrCount 0) (running 5 1)) = some (running 5 1) ∧
    after (exec (.wrPrev 0) (running 5 1)) = some (running 5 1) ∧ after (exec (.wrErrInfo 1) ready) = some ready ∧
    after (exec (.wrRsvd 1) (running 2 0)) = some (running 2 0) ∧
    after (exec (.wrRsvdHi 0 7) (running 2 0)) = some (running 2 0) := by decide +kernel

/-- RA2: IRQ_EN is set, `irq` stays 0 because DONE = 0. -/
theorem test_wrCtrl :
    (after (exec (.wrCtrl 0xFFFFFFFF) State.reset)).map (fun t => (t.ctrlWord, t.irq)) = some (1, false) := by decide
/-- R95: with DONE = 1, `wr CTRL, 1` makes `irq` = 1. -/
theorem test_wrCtrl_raises_irq :
    (after (exec (.wrCtrl 1) { State.reset with done := true })).map (·.irq) = some true := by decide
/-- RA5, RA6, RA7. -/
theorem test_wrStatus :
    statusAfter (exec (.wrStatus 0xFFFFFFFF) afterError6) = some 0x600 ∧
    statusAfter (exec (.wrStatus 2) afterError6) = some 0x604 ∧
    statusAfter (exec (.wrStatus 0) afterError6) = some 0x606 := by decide
/-- RA13. -/
theorem test_wrStatus_during_run :
    statusAfter (exec (.wrStatus 6) { running 1 0 with ovr := true }) = some 1 := by decide
/-- RA16, RA17 and the stores of R98 to R101. -/
theorem test_operand_writes :
    (after (exec (.wrCoef 0x7FA00000) State.reset)).map (·.coef) = some 0x7FA00000 ∧
    (after (exec (.wrSrc 0x1003) State.reset)).map (·.src) = some 0x1003 ∧
    (after (exec (.wrDst 0x2000) State.reset)).map (·.dst) = some 0x2000 ∧
    (after (exec (.wrLen 0x3E80) State.reset)).map (·.len) = some 0x3E80 := by decide
/-- RA8, RA9, RA10, RA11: dropped with OVR during a run. -/
theorem test_frozen_writes :
    after (exec (.wrLen 7) (running 1 0)) = some { running 1 0 with ovr := true } ∧
    after (exec (.wrCoef 0) (running 1 0)) = some { running 1 0 with ovr := true } ∧
    after (exec (.wrSrc 0) (running 1 0)) = some { running 1 0 with ovr := true } ∧
    after (exec (.wrDst 0) (running 1 0)) = some { running 1 0 with ovr := true } ∧
    after (exec (.wrCmd 1) (running 1 0)) = some { running 1 0 with ovr := true } ∧
    after (exec .nop (running 1 0)) = some { running 1 0 with ovr := true } := by decide +kernel

/-! ## Commands -/

/-- CM1. -/
theorem test_nop :
    statusAfter (exec (.wrCmd 0) { State.reset with done := true, errCode := 2 }) = some 0x202 := by decide
/-- CM2, CM3, CM4. -/
theorem test_illegal :
    (after (exec (.illegal 0x102) { State.reset with count := 5 })).map (fun t => (t.statusWord, t.errInfo, t.count)) =
      some (0x102, 0x102, 5) ∧
    (after (exec (.wrCmd 0x101) State.reset)).map (fun t => (t.statusWord, t.errInfo)) = some (0x102, 0x101) ∧
    (after (exec (.wrCmd 0xFFFFFFFF) State.reset)).map (fun t => (t.statusWord, t.errInfo)) =
      some (0x102, 0xFFFFFFFF) := by decide

/-- What a RUN with these operands leaves in STATUS and ERR_INFO. -/
def runOutcome (src dst len : Word) : Option (Word × Word) :=
  (after (exec .run (withOperands src dst len))).map fun t => (t.statusWord, t.errInfo)

/-- CM5 to CM8 and CM12. -/
theorem test_run_alignment :
    runOutcome 0x1002 0x2000 5 = some (0x202, 0x1002) ∧ runOutcome 0x1000 0x2001 5 = some (0x202, 0x2001) ∧
    runOutcome 0x1001 0x2003 5 = some (0x202, 0x1001) ∧ runOutcome 0x1002 0x2000 0 = some (0x202, 0x1002) ∧
    runOutcome 0xFFFFFFF0 0x1002 5 = some (0x202, 0x1002) := by decide
/-- CM9 to CM11, CM13, CM14. -/
theorem test_run_range :
    runOutcome 0xFFFFFFF0 0x2000 4 = some (1, 0) ∧ runOutcome 0xFFFFFFF0 0x2000 5 = some (0x302, 0xFFFFFFF0) ∧
    runOutcome 0x1000 0xFFFFFFFC 2 = some (0x302, 0xFFFFFFFC) ∧
    runOutcome 0 0x80000000 0x40000000 = some (0x302, 0x80000000) ∧
    runOutcome 0 0 0x40000001 = some (0x302, 0) := by decide
/-- CM15 to CM20. -/
theorem test_run_overlap :
    runOutcome 0x1000 0x1010 5 = some (0x402, 0x1010) ∧ runOutcome 0 0 0 = some (2, 0) ∧
    runOutcome 0x1000 0x1014 5 = some (1, 0) ∧ runOutcome 0x2000 0x1FEC 5 = some (1, 0) ∧
    runOutcome 0x1000 0x1000 1 = some (0x402, 0x1000) ∧ runOutcome 0x1000 0x1000 0 = some (2, 0) := by decide
/-- CM21, CM22: COUNT and PREV are zeroed whether the RUN starts or is rejected. -/
theorem test_run_clears_progress :
    (after (exec .run { ready with count := 3, prev := 0x40400000, errCode := 2 })).map
      (fun t => (t.statusWord, t.count, t.prev, t.errInfo)) = some (1, 0, 0, 0) ∧
    (after (exec .run { ready with dst := 0x1010, count := 3, prev := 0x40400000 })).map
      (fun t => (t.count, t.prev)) = some (0, 0) := by decide +kernel
/-- P4: `irq` is high at once after an empty RUN with IRQ_EN = 1. -/
theorem test_empty_run_irq :
    (after (exec (.wrCmd 1) { withOperands 0x1000 0x2000 0 with irqEn := true })).map (·.irq) = some true := by decide

/-! ## The engine -/

/-- P1, engine step 2: the word written at 0x2004, its bytes 0A D7 83 3F, COUNT and PREV. -/
theorem test_engine_step :
    (after (engineStep (running 1 0x3F800000))).map (fun t => (t.mem.wordAt 0x2004, t.count, t.prev)) =
      some (0x3F83D70A, 2, 0x40000000) ∧
    (after (engineStep (running 1 0x3F800000))).map
      (fun t => [0x2004, 0x2005, 0x2006, 0x2007].map t.mem.byteAt) = some [0x0A, 0xD7, 0x83, 0x3F] := by decide +kernel
/-- P1, engine step 5: the run completes. -/
theorem test_engine_last_step :
    (after (engineStep (running 4 0xBF800000))).map (fun t => (t.mem.wordAt 0x2010, t.statusWord, t.count, t.prev)) =
      some (0x3FBC28F6, 2, 5, 0x3F000000) := by decide +kernel
/-- BE1. -/
theorem test_engine_read_error :
    (after (engineStep { running 2 0x40000000 with busErrs := [⟨.read, 0x1008, 4⟩] })).map
      (fun t => (t.statusWord, t.errInfo, t.count, t.prev, t.mem == p1Mem)) =
      some (0x502, 0x1008, 2, 0x40000000, true) := by decide +kernel
/-- BE3. -/
theorem test_engine_write_error :
    (after (engineStep { running 0 0 with busErrs := [⟨.write, 0x2000, 4⟩] })).map
      (fun t => (t.statusWord, t.errInfo, t.count, t.prev)) = some (0x602, 0x2000, 0, 0) := by decide +kernel
/-- RS1: no DONE, no `irq`, the registers of R44. -/
theorem test_reset_during_run :
    (after (step { running 2 0x40000000 with inputs := [.assertReset false] })).map
      (fun t => (t.statusWord, t.coef, t.len, t.irq, t.mem == p1Mem)) = some (0, 0, 0, false, true) := by decide +kernel

/-! ## The step and the host's port -/

/-- RA18: a 16-bit access at 0x10; and R50's edge, offset 0x40. -/
theorem test_refused_accesses :
    refusalIn (hostAccess ⟨0, 2, false, 0x10, 0⟩ State.reset) = some (.nonWordAccess 2) ∧
    refusalIn (hostAccess ⟨0, 4, false, 0x02, 0⟩ State.reset) = some (.unalignedOffset 2) ∧
    refusalIn (hostAccess ⟨0, 4, true, 0x40, 0⟩ State.reset) = some (.outsideWindow 0x40) ∧
    refusalIn (hostAccess ⟨1, 4, false, 0, 0⟩ State.reset) = some (.secondHost 1) ∧
    refusalIn (hostAccess ⟨0, 4, false, 0, 0⟩ { State.reset with inReset := true }) = some .duringReset := by decide

theorem test_fetch_word : readBack (step (State.reset.withFetchWord 8 0x00)) = some 0x50454D01 := by decide

/-- R77: `setup` is four writes. -/
theorem test_setup_expansion :
    HostLine.inputs (.setup 0x3F7851EC 0x1000 0x2000 5) =
      [.access ⟨0, 4, true, 0x10, 0x3F7851EC⟩, .access ⟨0, 4, true, 0x14, 0x1000⟩,
       .access ⟨0, 4, true, 0x18, 0x2000⟩, .access ⟨0, 4, true, 0x1C, 5⟩] := by decide

/-- P1: the bytes of `mw 0x00001000, 0x3F800000`. -/
theorem test_mw :
    (after (takeInput (.memWrite 0x1000 (wordBytes 0x3F800000)) State.reset)).map (·.mem) =
      some [(0x1000, 0x00), (0x1001, 0x00), (0x1002, 0x80), (0x1003, 0x3F)] := by decide +kernel
/-- R53: address 0 may be used; R41: 2^32 is no address. -/
theorem test_memory_edges :
    (after (hostStore 0 [1] State.reset)).map (·.mem) = some [(0, 1)] ∧
    (after (hostStore 0xFFFFFFFF [1] State.reset)).map (·.mem) = some [(0xFFFFFFFF, 1)] ∧
    after (hostStore 0x100000000 [1] State.reset) = none := by decide +kernel
/-- R58: a host read of SRC during a run returns the input word. -/
theorem test_mr : readBack (hostLoad 0x1004 (running 2 0x40000000)) = some 0x40000000 := by decide +kernel

/-- R47, R51, R58: the word the engine reads, and PREV after, is the one in memory though a write raced it. -/
theorem test_raced_read :
    (after (engineStep { running 1 0x3F800000 with racedIn := [1] })).map (fun t => (t.prev, t.count)) =
      some (0x40000000, 2) := by decide +kernel
/-- R58: a racing write to output words 0 and 1 races those two and lands nowhere else. -/
theorem test_racing_output_write :
    (after (hostStore 0x2003 [1, 2] (running 0 0))).map
      (fun t => (List.map t.outputRaced [0, 1, 2], t.mem.wordAt 0x1000, t.count)) =
      some ([true, true, false], 0x3F800000, 0) := by decide +kernel
/-- R58: a racing write to input word 1 lands and races outputs 1 and 2. -/
theorem test_racing_input_write :
    (after (hostStore 0x1004 [0xAA] (running 0 0))).map
      (fun t => (List.map t.outputRaced [0, 1, 2, 3], t.mem.wordAt 0x1004)) =
      some ([false, true, true, false], 0x400000AA) := by decide +kernel
/-- R158: after release the next host access sees the reset state. -/
theorem test_release_reset :
    readBack (runSteps 2 { State.reset with inReset := true, inputs := [.releaseReset, readReg .id] }) =
      some 0x50454D01 := by decide +kernel

/-! ## Arithmetic -/

theorem test_v1 : preemph [0x3F800000, 0x40000000, 0x40400000, 0xBF800000, 0x3F000000] 0x3F7851EC =
    [0x3F800000, 0x3F83D70A, 0x3F87AE14, 0xC07A3D71, 0x3FBC28F6] := by decide +kernel
theorem test_v2 : preemph [0x3E12F902, 0xBF0988D8] 0x3F7851EC = [0x3E12F902, 0xBF2D2CE8] ∧
    f32Mul 0x3F7851EC 0x3E12F902 = 0x3E0E9042 ∧ f32Fms 0xBF0988D8 0x3F7851EC 0x3E12F902 = 0xBF2D2CE9 := by decide +kernel
theorem test_v3 : preemph [0x7F7FFFFF, 0xFF7FFFFF] 0x3F7851EC = [0x7F7FFFFF, 0xFF800000] := by decide +kernel
theorem test_v4 : preemph [0x7F800000, 0x7F800000] 0x3F800000 =
    [0x7F800000, nanResult (.sub 0x7F800000 0x7F800000)] := by rfl
theorem test_v4b : preemph [0x7F800000, 0x3F800000] 0x3F7851EC = [0x7F800000, 0xFF800000] := by decide +kernel
theorem test_v5 : preemph [0x40A00000, 0x40A00000] 0x3F800000 = [0x40A00000, 0] ∧
    preemph [0x80000000, 0x80000000] 0x3F800000 = [0x80000000, 0] := by decide +kernel
theorem test_v6 : preemph [0x00800000, 0x00800001] 0x3F000000 = [0x00800000, 0x00400001] ∧
    preemph [0x00000001, 0x00000000] 0x3F000000 = [1, 0] ∧ f32Fms 0 0x3F000000 1 = 0x80000000 := by decide +kernel
theorem test_v7 : preemph [0xBF800000, 0x80000000, 0x7F800000, 0x7FA00000] 0 =
    [0xBF800000, 0x80000000, 0x7F800000, 0x7FA00000] := by decide +kernel
theorem test_v8 : preemph [0x40400000, 0xC0000000] 0x80000000 = [0x40400000, 0xC0000000] := by decide +kernel
theorem test_v11 : preemph [0x40000000, 0x3F800000] 0xBF000000 = [0x40000000, 0x40000000] := by decide +kernel
theorem test_v12 : preemph [0, 0x3F800000, 0, 0] 0x3F7851EC = [0, 0x3F800000, 0xBF7851EC, 0] := by decide +kernel
theorem test_v13 : preemph [0, 0x80000000, 0x80000000] 0x3F7851EC = [0, 0x80000000, 0] := by decide +kernel
theorem test_v14 : preemph [0x3F800000, 0x3F800000, 0x40400000] 0x40000000 =
    [0x3F800000, 0xBF800000, 0x3F800000] := by decide +kernel
theorem test_v16 : preemph [0x3F800000, 0x4B800001] 0x3F800000 = [0x3F800000, 0x4B800000] := by decide +kernel

/-! ## Witnesses: states and operands that meet the hypotheses of the statements -/

theorem witness_first_step_inv : (running 0 0).Inv := by
  refine ⟨?_, ?_, ?_, ?_, ?_, ?_, ?_⟩ <;> decide +kernel
theorem witness_middle_step_inv : (running 2 0x40000000).Inv := by
  refine ⟨?_, ?_, ?_, ?_, ?_, ?_, ?_⟩ <;> decide +kernel
theorem witness_last_step_inv : (running 4 0xBF800000).Inv := by
  refine ⟨?_, ?_, ?_, ?_, ?_, ?_, ?_⟩ <;> decide +kernel
theorem witness_idle_inv : ready.Inv := by
  refine ⟨?_, ?_, ?_, ?_, ?_, ?_, ?_⟩ <;> decide +kernel

/-- DecodeOfEncode, EncodeOfDecode, FetchWordRuns. -/
theorem witness_encoding :
    (Instr.illegal 2).wellFormed = true ∧ (Instr.wrRsvdHi 3 0xFFFFFFFF).wellFormed = true ∧
    decode (.bus 0x7C 5) = .ok (.wrRsvdHi 3 5) ∧ decodeTableWord 8 0x7C = some (.wrRsvdHi 3 0) ∧
    decodeTableWord 32 0xFFFFFFFF = some (.illegal 0xFFFFFFFF) := ⟨rfl, rfl, rfl, rfl, rfl⟩
/-- AlignedSelectorsDecode: both clauses at the ends of the range. -/
theorem witness_selectors :
    (selOff 0x01).toNat % 4 ≠ 0 ∧ (selOff 0x7F).toNat % 4 ≠ 0 ∧ (selOff 0x00).toNat % 4 = 0 ∧
    (selOff 0x7C).toNat % 4 = 0 := by decide
/-- CommandWordFields: every clause, at the ends of its range. -/
theorem witness_command_words :
    (cmdRsvd 0 = 0 ∧ cmdOpcode 0 = 0) ∧ (cmdRsvd 1 = 0 ∧ cmdOpcode 1 = 1) ∧
    (cmdRsvd 2 = 0 ∧ 2 ≤ (cmdOpcode 2).toNat) ∧ (cmdRsvd 0xFF = 0 ∧ 2 ≤ (cmdOpcode 0xFF).toNat) ∧
    cmdRsvd 0x100 ≠ 0 ∧ cmdRsvd 0x80000001 ≠ 0 := by decide

/-- StepRunsDecodedInstr: an access and a command. -/
theorem witness_step_access :
    ∃ (s : State) (a : HostAccess) (i : Instr), s.inputs = [.access a] ∧ s.inReset = false ∧ a.host = 0 ∧ a.bytes = 4 ∧
      a.off < 64 ∧ decode (.bus (selOf a.write (BitVec.ofNat 6 a.off)) a.data) = .ok i :=
  ⟨{ State.reset with inputs := [.access ⟨0, 4, true, 60, 5⟩] }, ⟨0, 4, true, 60, 5⟩, .wrRsvdHi 3 5, rfl, rfl, rfl, rfl,
    by decide, rfl⟩
theorem witness_step_command :
    ∃ (s : State) (v : Word) (i : Instr), s.inputs = [.command v] ∧ s.inReset = false ∧ decode (.cmd v) = .ok i :=
  ⟨{ State.reset with inputs := [.command 1] }, 1, .run, rfl, rfl, rfl⟩

/-- BadAccessesRefused: each clause. -/
theorem witness_bad_accesses :
    ∃ (s : State) (a b c : HostAccess), s.inputs = [.access a] ∧ s.inReset = false ∧ a.host = 0 ∧ a.bytes ≠ 4 ∧
      (b.host = 0 ∧ b.bytes = 4 ∧ 64 ≤ b.off) ∧ (c.host = 0 ∧ c.bytes = 4 ∧ c.off < 64 ∧ c.off % 4 ≠ 0) ∧
      { s with inputs := [.access b] }.inputs = [.access b] ∧ { s with inputs := [.access c] }.inputs = [.access c] :=
  ⟨{ State.reset with inputs := [.access ⟨0, 2, false, 16, 0⟩] }, ⟨0, 2, false, 16, 0⟩, ⟨0, 4, false, 64, 0⟩,
    ⟨0, 4, true, 63, 0⟩, rfl, rfl, rfl, by decide, by decide, by decide, rfl, rfl⟩
/-- ResetAndSecondHostRefused. -/
theorem witness_refused_hosts :
    ∃ (s t u : State) (a : HostAccess), (s.inputs = [.access a] ∧ s.inReset = true) ∧
      (t.inputs = [.command 1] ∧ t.inReset = true) ∧ (u.inputs = [.access a] ∧ u.inReset = false ∧ a.host ≠ 0) :=
  ⟨{ State.reset with inputs := [.access ⟨1, 4, false, 0, 0⟩], inReset := true },
    { State.reset with inputs := [.command 1], inReset := true },
    { State.reset with inputs := [.access ⟨1, 4, false, 0, 0⟩] }, ⟨1, 4, false, 0, 0⟩, ⟨rfl, rfl⟩, ⟨rfl, rfl⟩,
    ⟨rfl, rfl, by decide⟩⟩
/-- WindowReadsItsSlots: the first and the last slot. -/
theorem witness_window : 0 < 64 ∧ 0 % 4 = 0 ∧ 60 < 64 ∧ 60 % 4 = 0 ∧ State.reset.inReset = false := by decide

/-- OperandWrites, CmdWrite, NopCommand, IllegalCommand, RunCommandFrame: an idle block, a running one, an illegal word. -/
theorem witness_idle_and_busy :
    ready.busy = false ∧ (running 0 0).busy = true ∧ (2 : Word) ≠ 0 ∧ (2 : Word) ≠ 1 := by decide
/-- RunChecksAlignment: each clause (CM7, CM8, CM6). -/
theorem witness_alignment :
    (withOperands 0x1001 0x2003 5).busy = false ∧ (withOperands 0x1001 0x2003 5).src.toNat % 4 ≠ 0 ∧
    (withOperands 0x1002 0x2000 0).src.toNat % 4 ≠ 0 ∧
    ((withOperands 0x1000 0x2001 5).src.toNat % 4 = 0 ∧ (withOperands 0x1000 0x2001 5).dst.toNat % 4 ≠ 0) := by decide
/-- RunChecksRange: each clause one past its limit, and the limit itself (CM10, CM13, CM9). -/
theorem witness_range :
    (withOperands 0xFFFFFFF0 0x2000 5).src.toNat + 4 * 5 > 2 ^ 32 ∧
    (withOperands 0xFFFFFFF0 0x2000 4).src.toNat + 4 * 4 = 2 ^ 32 ∧
    ((withOperands 0 0x80000000 0x40000000).src.toNat + 4 * 0x40000000 ≤ 2 ^ 32 ∧
      (withOperands 0 0x80000000 0x40000000).dst.toNat + 4 * 0x40000000 > 2 ^ 32) ∧
    (withOperands 0xFFFFFFF0 0x2000 5).busy = false ∧ (withOperands 0 0x80000000 0x40000000).busy = false ∧
    (0xFFFFFFF0 : Word).toNat % 4 = 0 ∧ (0x2000 : Word).toNat % 4 = 0 ∧ (0 : Word).toNat % 4 = 0 ∧
    (0x80000000 : Word).toNat % 4 = 0 := by decide
/-- RunChecksOverlap: CM15, at the shared byte 0x1010. -/
theorem witness_overlap :
    (withOperands 0x1000 0x1010 5).busy = false ∧ 0x1000 % 4 = 0 ∧ 0x1010 % 4 = 0 ∧
    ∃ a, (0x1000 ≤ a ∧ a < (withOperands 0x1000 0x1010 5).src.toNat + 4 * 5) ∧
      ((withOperands 0x1000 0x1010 5).dst.toNat ≤ a ∧ a < 0x1010 + 4 * 5) := by
  exact ⟨rfl, rfl, rfl, 0x1010, by decide, by decide⟩
/-- EmptyRunCompletes: the reset state (CM16). -/
theorem witness_empty_run :
    State.reset.busy = false ∧ State.reset.src.toNat % 4 = 0 ∧ State.reset.dst.toNat % 4 = 0 ∧ State.reset.len = 0 := by
  decide
/-- RunStarts: adjacent regions (CM17). -/
theorem witness_run_starts :
    (withOperands 0x1000 0x1014 5).busy = false ∧ (withOperands 0x1000 0x1014 5).OperandsChecked ∧
    0 < (withOperands 0x1000 0x1014 5).len.toNat ∧
    ∀ a, (0x1000 ≤ a ∧ a < 0x1000 + 4 * 5) → ¬ (0x1014 ≤ a ∧ a < 0x1014 + 4 * 5) :=
  ⟨rfl, by decide, by decide, by omega⟩

/-- InstructionsTouchNoMemory's second half and BusyFreezesTheRun, OvrWriters: instructions that answer a next state. -/
theorem witness_busy_instructions :
    (∃ t, exec (.wrCoef 0) (running 2 0) = .next t) ∧ frozenWhileBusy (.wrCoef 0) = true ∧
    (∃ t, exec (.wrCoef 0) (running 2 0) = .next t ∧ (running 2 0).ovr = false ∧ t.ovr = true) ∧
    (∃ t, exec (.wrStatus 4) afterError6 = .next t ∧ afterError6.ovr = true ∧ t.ovr = false) :=
  ⟨⟨_, rfl⟩, rfl, ⟨_, rfl, rfl, rfl⟩, ⟨_, rfl, rfl, rfl⟩⟩
/-- OvrWriters: a step that sets OVR and one that clears it. -/
theorem witness_ovr_steps :
    (∃ t, step { running 2 0 with inputs := [.access ⟨0, 4, true, 0x1C, 7⟩] } = .next t ∧ t.ovr = true) ∧
    (∃ t, step { afterError6 with inputs := [.access ⟨0, 4, true, 8, 4⟩] } = .next t ∧ t.ovr = false) :=
  ⟨⟨_, rfl, rfl⟩, ⟨_, rfl, rfl⟩⟩
/-- BusyFreezesTheRun, EngineStepFrame, CountAdvancesByOne, StepKeepsInvariant: a step of a run. -/
theorem witness_run_step :
    ∃ t, step (running 2 0x40000000) = .next t ∧ engineStep (running 2 0x40000000) = .next t ∧
      (running 2 0x40000000).busy = true ∧ t.busy = true ∧ (running 2 0x40000000).inputs.head? = none :=
  ⟨_, rfl, rfl, rfl, rfl, rfl⟩
/-- BusyWriters: a rise by either format, and a fall. -/
theorem witness_busy_writers :
    (∃ t, step (ready.issueRun []) = .next t ∧ (ready.issueRun []).busy = false ∧ t.busy = true) ∧
    (∃ t, step { ready with inputs := [.command 1] } = .next t ∧ t.busy = true) ∧
    (∃ t, step (running 4 0xBF800000) = .next t ∧ (running 4 0xBF800000).busy = true ∧ t.busy = false) :=
  ⟨⟨_, rfl, rfl, rfl⟩, ⟨_, rfl, rfl⟩, ⟨_, rfl, rfl, rfl⟩⟩
/-- DoneClearers: a run start, a W1C and a reset. -/
theorem witness_done_clearers :
    (∃ t, step { ready.issueRun [] with done := true } = .next t ∧ t.done = false) ∧
    (∃ t, step { afterError6 with inputs := [.access ⟨0, 4, true, 8, 2⟩] } = .next t ∧ t.done = false) ∧
    (∃ t, step { afterError6 with inputs := [.assertReset false] } = .next t ∧ t.done = false) :=
  ⟨⟨_, rfl, rfl⟩, ⟨_, rfl, rfl⟩, ⟨_, rfl, rfl⟩⟩
/-- IrqEdges: a rise at a completion, a rise at a write of CTRL, a fall at a W1C. -/
theorem witness_irq_edges :
    (∃ t, step { running 4 0xBF800000 with irqEn := true } = .next t ∧ t.irq = true) ∧
    (∃ t, step { afterError6 with inputs := [.access ⟨0, 4, true, 4, 1⟩] } = .next t ∧
      afterError6.irq = false ∧ t.irq = true) ∧
    (∃ t, step { afterError6 with irqEn := true, inputs := [.access ⟨0, 4, true, 8, 2⟩] } = .next t ∧ t.irq = false) :=
  ⟨⟨_, rfl, rfl⟩, ⟨_, rfl, rfl, rfl⟩, ⟨_, rfl, rfl⟩⟩

/-- HostStoreWhenIdle: the last byte of the space. -/
theorem witness_host_store : State.reset.busy = false ∧ 0xFFFFFFFF + [(1 : Byte)].length ≤ 2 ^ 32 := by decide
/-- RacingReads, RacingWrites: the first and the last sample of a run (the invariant: witness_middle_step_inv). -/
theorem witness_races :
    (running 2 0x40000000).busy = true ∧ 0 < (running 2 0x40000000).len.toNat ∧ 4 < (running 2 0x40000000).len.toNat ∧
    0x1003 + [(1 : Byte), 2].length ≤ 2 ^ 32 ∧ 0xFFFFFFFF + [(1 : Byte)].length ≤ 2 ^ 32 := by decide
/-- RacingReads: a run that starts. -/
theorem witness_run_record : ∃ t, exec .run ready = .next t ∧ ready.busy = false ∧ t.busy = true := ⟨_, rfl, rfl, rfl⟩
/-- EngineStepAdvances: both clauses, a step inside the run and its last (witness_middle_step_inv, witness_last_step_inv). -/
theorem witness_engine_advances :
    ((running 2 0x40000000).busError .read 0x1008 = false ∧ (running 2 0x40000000).busError .write 0x2008 = false ∧
      (running 2 0x40000000).outputRaced 2 = false ∧ (running 2 0x40000000).count.toNat + 1 ≠ 5) ∧
    ((running 4 0xBF800000).busError .read 0x1010 = false ∧ (running 4 0xBF800000).busError .write 0x2010 = false ∧
      (running 4 0xBF800000).outputRaced 4 = false ∧ (running 4 0xBF800000).count.toNat + 1 = 5) := by decide
/-- BusErrorEndsRun: each clause; the map of BusErrors is no part of the invariant. -/
theorem witness_bus_errors :
    (({ running 2 0x40000000 with busErrs := [⟨.read, 0x1008, 4⟩] } : State).Inv ∧
      ({ running 2 0x40000000 with busErrs := [⟨.read, 0x1008, 4⟩] } : State).busError .read 0x1008 = true) ∧
    (({ running 4 0xBF800000 with busErrs := [⟨.write, 0x2010, 4⟩] } : State).Inv ∧
      ({ running 4 0xBF800000 with busErrs := [⟨.write, 0x2010, 4⟩] } : State).busError .read 0x1010 = false ∧
      ({ running 4 0xBF800000 with busErrs := [⟨.write, 0x2010, 4⟩] } : State).busError .write 0x2010 = true) :=
  ⟨⟨witness_middle_step_inv, by decide⟩, witness_last_step_inv, by decide, by decide⟩

/-- FirCases, PreemphElementwise: a general sample. -/
theorem witness_general_sample :
    1 ≤ 1 ∧ (0x3F7851EC : Word) ≠ 0 ∧ (0x3F7851EC : Word) ≠ 0x80000000 ∧ 1 < [(0 : Word), 1].length := by decide
/-- F32MulCases, F32SubCases, RepresentableRoundsToItself, ProductWithOne: a word of each class. -/
theorem witness_classes :
    isNaN 0x7F800001 = true ∧ isNaN 0x3F800000 = false ∧ isInf 0xFF800000 = true ∧ isNaN 0xFF800000 = false ∧
    isZero 0xFF800000 = false ∧ isZero 0x80000000 = true ∧ isZero 0 = true ∧ isFinite 0x80000000 = true ∧
    (isFinite 1 = true ∧ isZero 1 = false) ∧ (isFinite 0x7F7FFFFF = true ∧ isZero 0x7F7FFFFF = false) ∧
    fpSign 0x7F800000 = fpSign 0 ∧ fpSign 0x7F800000 ≠ fpSign 0xFF800000 ∧ fpSign 0 ≠ fpSign 0x80000000 := by decide
/-- RoundsToNearestEven: a tie, half a unit between the patterns 0 and 1. -/
theorem witness_tie :
    0 < 1 ∧ 1 ≤ 0x7F800000 ∧ ((round32 true 1 1).extractLsb' 0 31).toNat = 0 ∧
    ((1 : Int) - (magUnits 1 : Int) * 2 ^ 1).natAbs = ((1 : Int) - (magUnits 0 : Int) * 2 ^ 1).natAbs := by decide +kernel

/-- ResetAssertAndRelease: with a write in flight and without. -/
theorem witness_reset_assertion :
    ({ running 2 0x40000000 with inputs := [.assertReset true] } : State).inputs = [.assertReset true] ∧
    (false = false ∨ State.reset.busy = false) := ⟨rfl, .inl rfl⟩
/-- ResetAssertAndRelease: a block in reset. -/
theorem witness_reset_release :
    ({ State.reset with inReset := true, inputs := [.releaseReset] } : State).Inv ∧
    ({ State.reset with inReset := true, inputs := [.releaseReset] } : State).inputs = [.releaseReset] := by
  refine ⟨⟨?_, ?_, ?_, ?_, ?_, ?_, ?_⟩, rfl⟩ <;> decide
/-- RunTerminates. -/
theorem witness_terminates :
    (running 0 0).Inv ∧ (running 0 0).busy = true ∧ (running 0 0).inputs = [] := ⟨witness_first_step_inv, rfl, rfl⟩
/-- RunComputesPreemph. -/
theorem witness_run :
    ready.busy = false ∧ ready.inReset = false ∧ ready.OperandsChecked ∧ 0 < ready.len.toNat ∧ ready.NoBusErrors := by
  decide +kernel
/-- RunUnderAnySchedule: a run of one sample with a write of other memory before its engine step. -/
theorem witness_schedule :
    ∃ t, ready1.busy = false ∧ ready1.inReset = false ∧ ready1.OperandsChecked ∧ 0 < ready1.len.toNat ∧
      (∀ x ∈ [Input.memWrite 0x3000 [1]], keepsRules ready1 x) ∧
      (∀ j < 2, ∃ u, runSteps (j + 1) (ready1.issueRun [.memWrite 0x3000 [1]]) = .next u ∧ u.busy = true) ∧
      runSteps (2 + 1) (ready1.issueRun [.memWrite 0x3000 [1]]) = .next t ∧ t.busy = false ∧ t.errCode = 0 := by
  refine ⟨_, rfl, rfl, by decide, by decide, ?_, ?_, rfl, rfl, rfl⟩
  · intro x hx
    obtain rfl := List.mem_singleton.mp hx
    show ∀ k < 1, inRegion 0x1000 1 (0x3000 + k) = false ∧ inRegion 0x2000 1 (0x3000 + k) = false
    decide
  · intro j hj
    interval_cases j
    · exact ⟨_, rfl, rfl⟩
    · exact ⟨_, rfl, rfl⟩
/-- RunDependsOnInputsOnly: two runs that differ in DST, COUNT, PREV and flags. -/
theorem witness_two_runs :
    ∃ s₁ s₂ : State, s₁.dst ≠ s₂.dst ∧ s₁.prev ≠ s₂.prev ∧
      (s₁.busy = false ∧ s₁.inReset = false ∧ s₁.OperandsChecked ∧ 0 < s₁.len.toNat ∧ s₁.NoBusErrors) ∧
      (s₂.busy = false ∧ s₂.inReset = false ∧ s₂.OperandsChecked ∧ s₂.NoBusErrors) ∧
      s₁.coef = s₂.coef ∧ s₁.len = s₂.len ∧
      s₁.mem.words s₁.src.toNat s₁.len.toNat = s₂.mem.words s₂.src.toNat s₂.len.toNat :=
  ⟨ready, { ready with dst := 0x3000, count := 3, prev := 0x40400000, ovr := true }, by decide, by decide,
    by decide +kernel, by decide +kernel, rfl, rfl, rfl⟩
/-- BusErrorsArePrecise: a read error at the first sample, a write error at the last (BE2, BE4). -/
theorem witness_precise_errors :
    (({ ready with busErrs := [⟨.read, 0x1000, 4⟩] } : State).OperandsChecked ∧ 0 < 5 ∧
      ({ ready with busErrs := [⟨.read, 0x1000, 4⟩] } : State).busError .read 0x1000 = true) ∧
    (({ ready with busErrs := [⟨.write, 0x2010, 4⟩] } : State).OperandsChecked ∧ 4 < 5 ∧
      (∀ j < 4, ({ ready with busErrs := [⟨.write, 0x2010, 4⟩] } : State).busError .read (0x1000 + 4 * j) = false ∧
        ({ ready with busErrs := [⟨.write, 0x2010, 4⟩] } : State).busError .write (0x2000 + 4 * j) = false) ∧
      ({ ready with busErrs := [⟨.write, 0x2010, 4⟩] } : State).busError .read 0x1010 = false ∧
      ({ ready with busErrs := [⟨.write, 0x2010, 4⟩] } : State).busError .write 0x2010 = true) := by decide +kernel

end Sys2Proof.Tests
end

section
/-! SUPPORT. Proofs of the statements of spec/00_scope.md: the primitive `complete` of R12. -/

namespace Sys2Proof.Proofs

open Sys2Proof Sys2Proof.Machine

/-- Settles O27: R12 is the definition of `complete`, one record update of the four fields, so both sides are the same
state by unfolding. What it leaves in each single field is said by the `complete_` lemmas. -/
theorem completeRecordsOutcome : Obligations.CompleteRecordsOutcome := by
  intro s code info
  rfl

end Sys2Proof.Proofs
end

section
/-! SUPPORT. The decoder read backwards: the packet, and the host access, that an instruction was decoded from. -/

namespace Sys2Proof.Proofs

open Sys2Proof Sys2Proof.Machine

/-- A selector that decodes is aligned and is answered by a row of the BUS table (R65, R66, R71). -/
theorem decode_bus_row {sel : Sel} {d : Word} {i : Instr} (h : decode (.bus sel d) = .ok i) :
    (selOff sel).extractLsb' 0 2 = 0 ∧ ∃ r ∈ busTable, r.hits sel = true ∧ i = r.instr sel d := by
  simp only [decode, decodeBus] at h
  split_ifs at h with hoff
  refine ⟨not_not.mp hoff, ?_⟩
  split at h
  next r hr =>
    have hhit := List.find?_some (p := fun r : BusRow => r.hits sel) hr
    exact ⟨r, List.mem_of_find?_eq_some hr, hhit, (Except.ok.inj h).symm⟩
  next => cases h

/-- What a row answers with encodes back to the row's own selector, or, in the two rows that leave OFF[3:2] open, to
that of the slot hit; a write keeps its data word (R71). -/
theorem busTable_encode {r : BusRow} (h : r ∈ busTable) :
    (r.mask = 0x7F ∧ ∀ d, encode (r.instr r.value d) = .bus r.value (if selWrite r.value then d else 0)) ∨
    (∃ w, r.mask = 0x73 ∧ r.value = selOf w 0x30 ∧ ∀ sel d,
      encode (r.instr sel d) = .bus (selOf w (0b11#2 ++ rsvdSlot sel ++ 0b00#2)) (if w then d else 0)) := by
  fin_cases h
  any_goals exact .inl ⟨rfl, fun _ => rfl⟩
  -- What is left are the rows of RD_RSVD and WR_RSVD at 0x30 to 0x3C.
  · exact .inr ⟨false, rfl, rfl, fun _ _ => rfl⟩
  · exact .inr ⟨true, rfl, rfl, fun _ _ => rfl⟩

/-- A row whose mask keeps every bit is hit by its own selector alone. -/
theorem eq_value_of_hits_fullMask {r : BusRow} {sel : Sel} (hmask : r.mask = 0x7F) (h : r.hits sel = true) :
    sel = r.value := by
  have hall : sel &&& (0x7F : Sel) = sel := BitVec.and_allOnes
  rw [BusRow.hits, hmask, hall] at h
  exact eq_of_beq h

/-- An aligned selector that hits a row of the slots 0x30 to 0x3C is made of W and OFF[3:2]. -/
theorem selOf_rsvdSlot_of_hits {r : BusRow} {sel : Sel} {w : Bool} (hmask : r.mask = 0x73)
    (hvalue : r.value = selOf w 0x30) (halign : (selOff sel).extractLsb' 0 2 = 0) (h : r.hits sel = true) :
    selOf w (0b11#2 ++ rsvdSlot sel ++ 0b00#2) = sel ∧ selWrite sel = w := by
  rw [BusRow.hits, hmask, hvalue] at h
  clear hmask hvalue
  revert sel w
  decide

/-- What a host transaction decodes to is encoded by its selector, and a write by its data word too (R65, R71). -/
theorem encode_of_decode_bus {sel : Sel} {d : Word} {i : Instr} (h : decode (.bus sel d) = .ok i) :
    encode i = .bus sel (if selWrite sel then d else 0) := by
  obtain ⟨halign, r, hmem, hhit, rfl⟩ := decode_bus_row h
  rcases busTable_encode hmem with ⟨hmask, henc⟩ | ⟨w, hmask, hvalue, henc⟩
  · rw [eq_value_of_hits_fullMask hmask hhit]
    exact henc d
  · obtain ⟨hsel, hw⟩ := selOf_rsvdSlot_of_hits hmask hvalue halign hhit
    rw [henc, hsel, hw]

@[simp] theorem selWrite_selOf (w : Bool) (off : BitVec 6) : selWrite (selOf w off) = w := by
  revert w off
  decide

@[simp] theorem selOff_selOf (w : Bool) (off : BitVec 6) : selOff (selOf w off) = off := by
  revert w off
  decide

/-- A host access that decodes to an instruction whose packet is a write was that write: W, offset and data word (R65). -/
theorem access_of_decode_write {a : HostAccess} {i : Instr} {off : BitVec 6} {d : Word} (hoff : a.off < 64)
    (hdec : decode (.bus a.selector a.data) = .ok i) (henc : encode i = .bus (selOf true off) d) :
    a.write = true ∧ a.off = off.toNat ∧ a.data = d := by
  obtain ⟨hsel, hdata⟩ := Packet.bus.inj (henc.symm.trans (encode_of_decode_bus hdec))
  have hw : true = a.write := by simpa [HostAccess.selector] using congrArg selWrite hsel
  have ho : off = BitVec.ofNat 6 a.off := by simpa [HostAccess.selector] using congrArg selOff hsel
  refine ⟨hw.symm, ?_, ?_⟩
  · rw [ho, BitVec.toNat_ofNat, Nat.mod_eq_of_lt hoff]
  · rw [hdata, HostAccess.selector, selWrite_selOf, ← hw, if_pos rfl]

/-- What BUSY freezes is a command word or a host write (R26, R97). -/
theorem encode_frozen {i : Instr} (h : frozenWhileBusy i = true) :
    (∃ v, encode i = .cmd v) ∨ ∃ off d, encode i = .bus (selOf true off) d := by
  cases i with
  | nop | run | illegal => exact .inl ⟨_, rfl⟩
  | wrCmd d => exact .inr ⟨0x0C, d, rfl⟩
  | wrCoef d => exact .inr ⟨0x10, d, rfl⟩
  | wrSrc d => exact .inr ⟨0x14, d, rfl⟩
  | wrDst d => exact .inr ⟨0x18, d, rfl⟩
  | wrLen d => exact .inr ⟨0x1C, d, rfl⟩
  | _ => cases h

/-- A host access that decodes to a frozen instruction is a write. -/
theorem access_write_of_frozen {a : HostAccess} {i : Instr} (hoff : a.off < 64)
    (hdec : decode (.bus a.selector a.data) = .ok i) (h : frozenWhileBusy i = true) : a.write = true := by
  rcases encode_frozen h with ⟨v, henc⟩ | ⟨off, d, henc⟩
  · cases henc.symm.trans (encode_of_decode_bus hdec)
  · exact (access_of_decode_write hoff hdec henc).1

/-- A command word decodes to no write of STATUS. -/
theorem decodeCmd_ne_wrStatus (v d : Word) : decodeCmd v ≠ .wrStatus d := by
  simp only [decodeCmd]
  split_ifs <;> exact Instr.noConfusion

end Sys2Proof.Proofs
end

section
/-! SUPPORT. Proofs of the statements of spec/10_state.md about what BUSY freezes (R38) and about OVR (R26). -/

namespace Sys2Proof.Proofs

open Sys2Proof Sys2Proof.Machine

/-! ## What an instruction does while BUSY, and to OVR -/

/-- A frozen write while BUSY does nothing but set OVR (R26, R97). -/
theorem exec_frozen_busy {i : Instr} {s t : State} (h : exec i s = .next t) (hb : s.busy = true)
    (hf : frozenWhileBusy i = true) : t = s.setOvr := by
  rcases exec_cases h with ⟨_, -, hi⟩ | ⟨-, hi⟩ | ⟨_, rfl, -⟩ | ⟨_, rfl, -⟩ | ⟨-, -, ht⟩ | ⟨hidle, -⟩
  · simp [hi] at hf
  · simp [hi hb] at hf
  · cases hf
  · cases hf
  · exact ht
  · simp [hidle] at hb

/-- The frame of every instruction while BUSY (R38, R121). -/
theorem exec_busy_frame {i : Instr} {s t : State} (h : exec i s = .next t) (hb : s.busy = true) :
    t = { s with ovr := t.ovr, done := t.done, irqEn := t.irqEn, readData := t.readData } := by
  rcases exec_cases h with ⟨_, rfl, -⟩ | ⟨rfl, -⟩ | ⟨_, -, rfl⟩ | ⟨_, -, rfl⟩ | ⟨-, -, rfl⟩ | ⟨hidle, -⟩
  any_goals rfl
  simp [hidle] at hb

@[simp] theorem cmdRun_ovr (s : State) : (cmdRun s).ovr = s.ovr := by
  rcases cmdRun_cases s with ⟨_, _, h, -⟩ | ⟨h, -⟩ | ⟨h, -⟩ <;> rw [h] <;> rfl

/-- What an instruction can do to OVR (R26): leave it, set it as a frozen write while BUSY, clear it by W1C. -/
theorem exec_ovr_cases {i : Instr} {s t : State} (h : exec i s = .next t) :
    t.ovr = s.ovr ∨ (s.busy = true ∧ frozenWhileBusy i = true ∧ t.ovr = true) ∨
    (∃ d, i = .wrStatus d ∧ t.ovr = (s.ovr && !d.getLsbD 2)) := by
  rcases exec_cases h with ⟨_, rfl, -⟩ | ⟨rfl, -⟩ | ⟨_, -, rfl⟩ | ⟨d, hi, rfl⟩ | ⟨hb, hf, rfl⟩ | ⟨-, hidle⟩
  · exact .inl rfl
  · exact .inl rfl
  · exact .inl rfl
  · exact .inr (.inr ⟨d, hi, rfl⟩)
  · exact .inr (.inl ⟨hb, hf, rfl⟩)
  · rcases hidle with ⟨_, rfl | rfl | rfl | rfl⟩ | ⟨_, rfl, -⟩ | ⟨-, rfl⟩
    any_goals exact .inl rfl
    exact .inl (cmdRun_ovr s)

/-! ## What a step does -/

/-- Reset clears OVR, with a write in flight or without (R44, R157). -/
theorem assertReset_ovr (f : Bool) (s : State) : (assertReset f s).ovr = false := rfl

/-- While BUSY no step but a reset changes the operands of the run (R38). -/
theorem step_busy_operands {s t : State} (hb : s.busy = true) (h : step s = .next t)
    (hreset : ∀ f, s.inputs.head? ≠ some (.assertReset f)) :
    t.coef = s.coef ∧ t.src = s.src ∧ t.dst = s.dst ∧ t.len = s.len := by
  obtain ⟨r, -, ⟨-, heng, -⟩ | ⟨hidle, -⟩ | ⟨_, _, -, -, -, -, hex⟩ | ⟨_, -, -, hex⟩ | ⟨f, hin, -⟩ | ⟨-, rfl⟩ |
    ⟨_, _, -, hst⟩ | ⟨_, -, hld⟩ | ⟨_, -, rfl⟩⟩ := step_cases h
  · obtain ⟨-, -, hcoef, hsrc, hdst, hlen, -⟩ := engineStep_keeps heng
    exact ⟨hcoef, hsrc, hdst, hlen⟩
  · simp [hidle] at hb
  · rw [exec_busy_frame hex hb]; exact ⟨rfl, rfl, rfl, rfl⟩
  · rw [exec_busy_frame hex hb]; exact ⟨rfl, rfl, rfl, rfl⟩
  · exact absurd (congrArg List.head? hin) (hreset f)
  · exact ⟨rfl, rfl, rfl, rfl⟩
  · rw [hostStore_eq hst]; exact ⟨rfl, rfl, rfl, rfl⟩
  · rw [hostLoad_eq hld]; exact ⟨rfl, rfl, rfl, rfl⟩
  · exact ⟨rfl, rfl, rfl, rfl⟩

/-- What a step can do to OVR (R26): leave it, set it at a host write while BUSY, clear it at a reset or by W1C. -/
theorem step_ovr_cases {s t : State} (h : step s = .next t) :
    t.ovr = s.ovr ∨
    (t.ovr = true ∧ s.busy = true ∧ ((∃ v, s.inputs.head? = some (.command v)) ∨
      ∃ a : HostAccess, s.inputs.head? = some (.access a) ∧ a.write = true)) ∨
    (t.ovr = false ∧ ∃ f, s.inputs.head? = some (.assertReset f)) ∨
    (∃ a : HostAccess, s.inputs.head? = some (.access a) ∧ a.write = true ∧ a.off = 0x08 ∧
      t.ovr = (s.ovr && !a.data.getLsbD 2)) := by
  obtain ⟨r, -, ⟨-, heng, -⟩ | ⟨-, rfl, -⟩ | ⟨a, i, hin, -, hoff, hdec, hex⟩ | ⟨v, hin, -, hex⟩ | ⟨f, hin, rfl⟩ |
    ⟨-, rfl⟩ | ⟨_, _, -, hst⟩ | ⟨_, -, hld⟩ | ⟨_, -, rfl⟩⟩ := step_cases h
  · obtain ⟨-, hovr, -⟩ := engineStep_keeps heng
    exact .inl hovr
  · exact .inl rfl
  · have hhead := congrArg List.head? hin
    rcases exec_ovr_cases hex with hkeep | ⟨hb, hf, hset⟩ | ⟨d, rfl, hclear⟩
    · exact .inl hkeep
    · exact .inr (.inl ⟨hset, hb, .inr ⟨a, hhead, access_write_of_frozen hoff hdec hf⟩⟩)
    · obtain ⟨hw, ho, rfl⟩ := access_of_decode_write (off := 0x08) hoff hdec rfl
      exact .inr (.inr (.inr ⟨a, hhead, hw, ho, hclear⟩))
  · rcases exec_ovr_cases hex with hkeep | ⟨hb, -, hset⟩ | ⟨d, hd, -⟩
    · exact .inl hkeep
    · exact .inr (.inl ⟨hset, hb, .inl ⟨v, congrArg List.head? hin⟩⟩)
    · exact absurd hd (decodeCmd_ne_wrStatus v d)
  · exact .inr (.inr (.inl ⟨assertReset_ovr f _, f, congrArg List.head? hin⟩))
  · exact .inl rfl
  · rw [hostStore_eq hst]; exact .inl rfl
  · rw [hostLoad_eq hld]; exact .inl rfl
  · exact .inl rfl

/-! ## The statements -/

/-- Settles O29: a step of a running state keeps the operands (`step_busy_operands`), and every instruction has the
frame `exec_busy_frame`. -/
theorem busyFreezesTheRun : Obligations.BusyFreezesTheRun :=
  ⟨fun _ _ hb h hreset => step_busy_operands hb h hreset, fun _ _ _ hb h => exec_busy_frame h hb⟩

/-- Settles O30: each clause reads off one of the cases in which an instruction (`exec_ovr_cases`) or a step
(`step_ovr_cases`) changes OVR. -/
theorem ovrWriters : Obligations.OvrWriters := by
  refine ⟨fun i s t h => ⟨fun hb hf => ?_, fun h0 h1 => ?_⟩, fun s t h => ⟨fun h0 h1 => ?_, fun h1 h0 => ?_⟩,
    assertReset_ovr⟩
  · rw [exec_frozen_busy h hb hf, State.setOvr_ovr]
  · rcases exec_ovr_cases h with hkeep | ⟨hb, hf, -⟩ | ⟨_, -, hclear⟩
    · simp [hkeep, h0] at h1
    · exact ⟨hb, hf⟩
    · simp [hclear, h0] at h1
  · rcases step_ovr_cases h with hkeep | ⟨-, hb, hwrite⟩ | ⟨hreset, -⟩ | ⟨_, -, -, -, hclear⟩
    · simp [hkeep, h0] at h1
    · exact ⟨hb, hwrite⟩
    · simp [hreset] at h1
    · simp [hclear, h0] at h1
  · rcases step_ovr_cases h with hkeep | ⟨hset, -⟩ | ⟨-, hreset⟩ | ⟨a, hhead, hw, hoff, hclear⟩
    · simp [hkeep, h1] at h0
    · simp [hset] at h0
    · exact .inl hreset
    · exact .inr ⟨a, hhead, hw, hoff, by simpa [hclear, h1] using h0⟩

end Sys2Proof.Proofs
end

section
/-! SUPPORT. What the register port refuses: the checks before decoding, and the decoder's own at an unaligned offset. -/

namespace Sys2Proof.Proofs

open Sys2Proof Sys2Proof.Machine

/-- A step whose next input is an access is that access, on the rest of the schedule (R14). -/
theorem step_access {s : State} {a : HostAccess} {rest : List Input} (h : s.inputs = .access a :: rest) :
    step s = hostAccess a { s with inputs := rest } := step_cons h

/-- Out of reset, what the port refuses the one host before decoding is the width first, then the window (R50, R81). -/
theorem refusalBefore_firstHost {a : HostAccess} {s : State} (hreset : s.inReset = false) (hhost : a.host = 0) :
    refusalBefore a s =
      if a.bytes ≠ 4 then some (.nonWordAccess a.bytes)
      else if 64 ≤ a.off then some (.outsideWindow a.off) else none := by
  simp [refusalBefore, hreset, hhost]

/-- An access refused before decoding answers with that refusal. -/
theorem hostAccess_refused {a : HostAccess} {s : State} {r : Refusal} (h : refusalBefore a s = some r) :
    hostAccess a s = .refused r := by
  simp [hostAccess, h]

/-- An access that passes those checks and does not decode answers with the decode error's refusal (R66). -/
theorem hostAccess_decodeError {a : HostAccess} {s : State} {e : DecodeError} (h : refusalBefore a s = none)
    (hdec : decode (.bus a.selector a.data) = .error e) : hostAccess a s = .refused (refusalOf e) := by
  simp [hostAccess, h, runPacket, hdec]

/-- The low two bits of an offset are the offset modulo 4. -/
theorem lowBits_ofNat_eq_zero_iff (off : Nat) : (BitVec.ofNat 6 off).extractLsb' 0 2 = 0 ↔ off % 4 = 0 := by
  rw [← BitVec.toNat_inj, BitVec.extractLsb'_toNat, BitVec.toNat_ofNat]
  simp only [Nat.shiftRight_zero, BitVec.ofNat_eq_ofNat, BitVec.toNat_ofNat, Nat.zero_mod]
  omega

/-- An access at an offset that is no multiple of 4 decodes to nothing (R66). -/
theorem decode_unaligned_access {a : HostAccess} (h : a.off % 4 ≠ 0) :
    decode (.bus a.selector a.data) = .error (.unalignedOffset a.selector) := by
  have hlow : (selOff a.selector).extractLsb' 0 2 ≠ 0 := by
    rw [HostAccess.selector, selOff_selOf]
    exact mt (lowBits_ofNat_eq_zero_iff a.off).mp h
  exact if_pos hlow

end Sys2Proof.Proofs
end

section
/-! SUPPORT. Proofs of the statements of spec/20_memory.md about the byte order of data memory (R45) and the accesses the
register window takes (R50). -/

namespace Sys2Proof.Proofs

open Sys2Proof Sys2Proof.Machine

/-- Settles O35: byte `k` of the word written lies at `a + k` (`Memory.byteAt_setWord`), a byte outside the four
stays (`Memory.byteAt_setWord_ne`), and the word read is `Memory.wordAt`'s definition. -/
theorem wordsAreLittleEndian : Obligations.WordsAreLittleEndian := by
  intro m a v
  have hbyte : ∀ k < 4, (m.setWord a v).byteAt (a + k) = byteLane v k := fun _ hk => Memory.byteAt_setWord m a v hk
  exact ⟨hbyte 0 (by decide), hbyte 1 (by decide), hbyte 2 (by decide), hbyte 3 (by decide),
    fun _ hb => Memory.byteAt_setWord_ne m v hb, rfl⟩

/-- Settles O8: out of reset the one host's access is refused for its width, then for the window
(`refusalBefore_firstHost`), and what passes both is refused by the decoder unless it is aligned
(`decode_unaligned_access`). -/
theorem badAccessesRefused : Obligations.BadAccessesRefused := by
  intro s a rest hin hreset hhost
  have hbefore := refusalBefore_firstHost (s := { s with inputs := rest }) hreset hhost
  rw [step_access hin]
  refine ⟨fun hwidth => ?_, fun hwidth hout => ?_, fun hwidth hoff hunaligned => ?_⟩
  · rw [if_pos hwidth] at hbefore
    exact hostAccess_refused hbefore
  · rw [if_neg (not_not.mpr hwidth), if_pos hout] at hbefore
    exact hostAccess_refused hbefore
  · rw [if_neg (not_not.mpr hwidth), if_neg (not_le.mpr hoff)] at hbefore
    exact hostAccess_decodeError hbefore (decode_unaligned_access hunaligned)

end Sys2Proof.Proofs
end

section
/-! SUPPORT. Command words by their fields, and the addresses of the engine's accesses in a run. -/

namespace Sys2Proof.Proofs

open Sys2Proof Sys2Proof.Machine

/-! ## Command words -/

/-- A command word is its two fields, RSVD above OPCODE (R67). -/
theorem cmdRsvd_append_cmdOpcode (v : Word) : cmdRsvd v ++ cmdOpcode v = v := by
  calc cmdRsvd v ++ cmdOpcode v = v.extractLsb' 0 32 := BitVec.extractLsb'_append_extractLsb'_eq_extractLsb' (by decide)
    _ = v := BitVec.extractLsb'_eq_self

/-- With RSVD 0 the opcode decides (R67, R71). -/
theorem decodeCmd_of_rsvd_zero {v : Word} (h : cmdRsvd v = 0) :
    decodeCmd v = if cmdOpcode v = 0 then .nop else if cmdOpcode v = 1 then .run else .illegal v :=
  if_neg (not_not.mpr h)

/-- A 1 bit in RSVD makes the word illegal, whatever the opcode (R67). -/
theorem decodeCmd_of_rsvd_ne_zero {v : Word} (h : cmdRsvd v ≠ 0) : decodeCmd v = .illegal v := if_pos h

/-! ## The engine's accesses -/

/-- Sample `i` of a region that starts at a multiple of 4 and ends inside the address space is an aligned word of that
space (R48, R69). -/
theorem sampleAddr_aligned_inSpace {base len : Word} {i : Nat} (halign : base.toNat % 4 = 0)
    (hspace : regionEnd base len ≤ addrLimit) (hi : i < len.toNat) :
    sampleAddr base i % 4 = 0 ∧ sampleAddr base i + 4 ≤ addrLimit := by
  simp only [sampleAddr, regionEnd] at *
  omega

/-- In a run the engine's next read is an aligned word of the address space (R69). -/
theorem readAddr_of_runInv {s : State} (h : s.RunInv) : s.readAddr % 4 = 0 ∧ s.readAddr + 4 ≤ addrLimit := by
  obtain ⟨-, hcount, -, ⟨halign, -, hspace, -⟩, -⟩ := h
  exact sampleAddr_aligned_inSpace halign hspace hcount

/-- In a run the engine's next write is an aligned word of the address space (R69). -/
theorem writeAddr_of_runInv {s : State} (h : s.RunInv) : s.writeAddr % 4 = 0 ∧ s.writeAddr + 4 ≤ addrLimit := by
  obtain ⟨-, hcount, -, ⟨-, halign, -, hspace, -⟩, -⟩ := h
  exact sampleAddr_aligned_inSpace halign hspace hcount

/-- An engine step whose two accesses lie in the address space answers a next state: only an address out of space is a
fault (R116). -/
theorem engineStep_next {s : State} (hread : s.readAddr + 4 ≤ addrLimit) (hwrite : s.writeAddr + 4 ≤ addrLimit) :
    ∃ t, engineStep s = .next t := by
  rw [engineStep, if_neg (not_lt.mpr hread), if_neg (not_lt.mpr hwrite)]
  dsimp only
  split_ifs <;> exact ⟨_, rfl⟩

/-- The engine's turn is an engine step in a run and nothing otherwise (R116, R156). -/
theorem engineTurn_busy {s : State} (h : s.busy = true) : engineTurn s = engineStep s := if_pos h

theorem engineTurn_idle {s : State} (h : s.busy = false) : engineTurn s = .next s := by simp [engineTurn, h]

/-- The run in progress of an invariant state. -/
theorem runInv_of_inv {s : State} (h : s.Inv) (hb : s.busy = true) : s.RunInv := by
  obtain ⟨-, -, hrun, -⟩ := h
  exact hrun hb

/-- From a state of the invariant the engine's turn answers a next state. -/
theorem engineTurn_next {s : State} (h : s.Inv) : ∃ t, engineTurn s = .next t := by
  rcases Bool.eq_false_or_eq_true s.busy with hb | hb
  · have hrun := runInv_of_inv h hb
    rw [engineTurn_busy hb]
    exact engineStep_next (readAddr_of_runInv hrun).2 (writeAddr_of_runInv hrun).2
  · exact ⟨s, engineTurn_idle hb⟩

end Sys2Proof.Proofs
end

section
/-! SUPPORT. Proofs of the statements of spec/30_encoding.md about the command word (R67) and the addresses of a run
(R69). -/

namespace Sys2Proof.Proofs

open Sys2Proof Sys2Proof.Machine

/-- Settles O4: the word is its two fields (`cmdRsvd_append_cmdOpcode`), and what it decodes to is read off its opcode
when RSVD is 0 (`decodeCmd_of_rsvd_zero`), and is ILLEGAL otherwise (`decodeCmd_of_rsvd_ne_zero`). -/
theorem commandWordFields : Obligations.CommandWordFields := by
  intro v
  refine ⟨(cmdRsvd_append_cmdOpcode v).symm, fun hr ho => ?_, fun hr ho => ?_, fun hr ho => ?_, fun hr => ?_⟩ <;>
    rw [decode]
  · rw [decodeCmd_of_rsvd_zero hr, if_pos ho]
  · have hne : cmdOpcode v ≠ 0 := by rw [ho]; decide
    rw [decodeCmd_of_rsvd_zero hr, if_neg hne, if_pos ho]
  · have hne0 : cmdOpcode v ≠ 0 := fun h => by simp [h] at ho
    have hne1 : cmdOpcode v ≠ 1 := fun h => by simp [h] at ho
    rw [decodeCmd_of_rsvd_zero hr, if_neg hne0, if_neg hne1]
  · rw [decodeCmd_of_rsvd_ne_zero hr]

/-- Settles O42: the turn answers (`engineTurn_next`), and the run's invariant puts both accesses in the space
(`readAddr_of_runInv`, `writeAddr_of_runInv`); the addresses are the exact sums by definition. -/
theorem engineAccessesInSpace : Obligations.EngineAccessesInSpace := by
  refine fun s hinv => ⟨engineTurn_next hinv, fun hb => ?_⟩
  obtain ⟨hreadAlign, hreadSpace⟩ := readAddr_of_runInv (runInv_of_inv hinv hb)
  obtain ⟨hwriteAlign, hwriteSpace⟩ := writeAddr_of_runInv (runInv_of_inv hinv hb)
  exact ⟨hreadAlign, hwriteAlign, hreadSpace, hwriteSpace, readAddr_eq s, writeAddr_eq s⟩

end Sys2Proof.Proofs
end

section
/-! SUPPORT. Register accesses: the selectors of the reserved slots, the two status words by their fields, what a write
does by BUSY. -/

namespace Sys2Proof.Proofs

open Sys2Proof Sys2Proof.Machine

/-! ## The reserved slots -/

/-- The selector of W and a slot from 0x30 on decodes to that slot's RD_RSVD or WR_RSVD (R71). -/
theorem decode_rsvdSlot (w : Bool) (k : BitVec 2) (d : Word) :
    decode (.bus (selOf w (0b11#2 ++ k ++ 0b00#2)) d) = .ok (if w then .wrRsvdHi k d else .rdRsvdHi k) := by
  have hslot : k = 0 ∨ k = 1 ∨ k = 2 ∨ k = 3 := by
    revert k
    decide
  rcases hslot with rfl | rfl | rfl | rfl <;> cases w <;> rfl

theorem readSlot_selector (k : BitVec 2) : (0x30 + 4 * k.setWidth 7 : Sel) = selOf false (0b11#2 ++ k ++ 0b00#2) := by
  revert k
  decide

theorem writeSlot_selector (k : BitVec 2) : (0x70 + 4 * k.setWidth 7 : Sel) = selOf true (0b11#2 ++ k ++ 0b00#2) := by
  revert k
  decide

/-! ## CTRL and STATUS -/

theorem ctrlWord_eq (s : State) : s.ctrlWord = if s.irqEn then 1 else 0 := by
  rw [State.ctrlWord]
  cases s.irqEn <;> rfl

/-- The fields of STATUS at their bits, zeros elsewhere (R23, R84). -/
theorem statusWord_fields (s : State) :
    s.statusWord.getLsbD 0 = s.busy ∧ s.statusWord.getLsbD 1 = s.done ∧ s.statusWord.getLsbD 2 = s.ovr ∧
    s.statusWord.extractLsb' 3 5 = 0 ∧ s.statusWord.extractLsb' 8 4 = s.errCode ∧
    s.statusWord.extractLsb' 12 20 = 0 := by
  rw [State.statusWord]
  generalize s.busy = busy, s.done = done, s.ovr = ovr, s.errCode = errCode
  revert busy done ovr errCode
  decide

/-- W1C bit by bit (R96): a 1 clears the flag, a 0 leaves it. -/
theorem clearStatus_eq (s : State) (d : Word) :
    s.clearStatus d =
      { s with done := if d.getLsbD 1 then false else s.done, ovr := if d.getLsbD 2 then false else s.ovr } := by
  rw [State.clearStatus]
  cases d.getLsbD 1 <;> cases d.getLsbD 2 <;> simp

/-! ## What a write does by BUSY -/

/-- Every frozen instruction while BUSY answers the state with OVR set (R26, R97). -/
theorem exec_eq_setOvr {i : Instr} {s : State} (hb : s.busy = true) (hf : frozenWhileBusy i = true) :
    exec i s = .next s.setOvr := by
  obtain ⟨t, ht⟩ := exec_next i s
  rw [ht, exec_frozen_busy ht hb hf]

/-- A write that BUSY would freeze acts when idle (R97 to R101). -/
theorem next_whenIdle {s : State} (act : State → State) (hb : s.busy = false) :
    (.next (whenIdle act s) : Result) = .next (act s) := by
  rw [whenIdle_idle act hb]

theorem exec_wrCmd_idle {s : State} (v : Word) (hb : s.busy = false) :
    exec (.wrCmd v) s = .next (command v s) := next_whenIdle (command v) hb

/-- An idle block stays idle when a command ends, so only the outcome changes (R12). -/
theorem complete_idle {s : State} (c : BitVec 4) (v : Word) (hb : s.busy = false) :
    complete c v s = { s with done := true, errCode := c, errInfo := v } := by
  rw [complete, ← hb]

end Sys2Proof.Proofs
end

section
/-! SUPPORT. Proofs of the statements of spec/40_register_access.md: the reads (R82 to R92, R93) and the writes (R94 to
R105). A selector written out is decoded by evaluation, and a read's or a CTRL write's answer is the definition of its
`exec` arm. -/

namespace Sys2Proof.Proofs

open Sys2Proof Sys2Proof.Machine

/-- Settles O11: the slots from 0x30 on go through `decode_rsvdSlot`; the words are constants of the read arms. -/
theorem constantReads : Obligations.ConstantReads := by
  refine fun s d => ⟨⟨rfl, rfl⟩, ⟨rfl, rfl⟩, ⟨rfl, rfl⟩, fun k => ⟨?_, rfl⟩⟩
  rw [readSlot_selector]
  exact decode_rsvdSlot false k d

/-- Settles O12: the words returned are `ctrlWord` and `statusWord`, read field by field (`ctrlWord_eq`,
`statusWord_fields`). -/
theorem controlAndStatusReads : Obligations.ControlAndStatusReads := by
  refine fun s d => ⟨rfl, rfl, ?_, s.statusWord, rfl, statusWord_fields s⟩
  rw [← ctrlWord_eq]
  rfl

/-- Settles O13: each arm returns its register. -/
theorem dataRegisterReads : Obligations.DataRegisterReads :=
  fun _ _ => ⟨⟨rfl, rfl⟩, ⟨rfl, rfl⟩, ⟨rfl, rfl⟩, ⟨rfl, rfl⟩, ⟨rfl, rfl⟩, ⟨rfl, rfl⟩, ⟨rfl, rfl⟩⟩

/-- Settles O14: the slots from 0x70 on go through `decode_rsvdSlot`; the write arms answer the state itself. -/
theorem readOnlyWritesDoNothing : Obligations.ReadOnlyWritesDoNothing := by
  refine fun s d => ⟨⟨rfl, rfl⟩, ⟨rfl, rfl⟩, ⟨rfl, rfl⟩, ⟨rfl, rfl⟩, ⟨rfl, rfl⟩, fun k => ⟨?_, rfl⟩⟩
  rw [writeSlot_selector]
  exact decode_rsvdSlot true k d

/-- Settles O15: the arm is one record update, and `irq` reads the field it sets and DONE. -/
theorem ctrlWrite : Obligations.CtrlWrite :=
  fun _ _ => ⟨rfl, _, rfl, rfl, rfl⟩

/-- Settles O16: the arm is `clearStatus`, flag by flag (`clearStatus_eq`). -/
theorem statusWriteClears : Obligations.StatusWriteClears := by
  refine fun s d => ⟨rfl, ?_⟩
  rw [← clearStatus_eq]
  rfl

/-- Settles O17: idle, each write stores its word (`next_whenIdle`); while BUSY all four are frozen
(`exec_eq_setOvr`). -/
theorem operandWrites : Obligations.OperandWrites :=
  fun _ _ => ⟨⟨rfl, rfl, rfl, rfl⟩,
    fun hb => ⟨next_whenIdle _ hb, next_whenIdle _ hb, next_whenIdle _ hb, next_whenIdle _ hb⟩,
    fun hb => ⟨exec_eq_setOvr hb rfl, exec_eq_setOvr hb rfl, exec_eq_setOvr hb rfl, exec_eq_setOvr hb rfl⟩⟩

/-- Settles O18: while BUSY the write is frozen (`exec_eq_setOvr`); idle, it performs `command`, whose third case leaves
BUSY as it is (`command_cases`, `complete_idle`). -/
theorem cmdWrite : Obligations.CmdWrite := by
  refine fun s v => ⟨rfl, fun hb => exec_eq_setOvr hb rfl, fun hb => ⟨exec_wrCmd_idle 0 hb, ?_, fun h0 h1 => ?_⟩⟩
  · calc exec (.wrCmd 1) s = .next (cmdRun s) := exec_wrCmd_idle 1 hb
      _ = exec .run s := (next_whenIdle cmdRun hb).symm
  · have hcommand : command v s = complete 1 v s := by
      rcases command_cases v s with ⟨rfl, -⟩ | ⟨rfl, -⟩ | ⟨-, -, h⟩
      · exact absurd rfl h0
      · exact absurd rfl h1
      · exact h
    rw [exec_wrCmd_idle v hb, hcommand, complete_idle 1 v hb]

end Sys2Proof.Proofs
end

section
/-! SUPPORT. The command words: RUN by the arithmetic of its operands (R109 to R115), and what decodes to ILLEGAL. -/

namespace Sys2Proof.Proofs

open Sys2Proof Sys2Proof.Machine

/-- A word other than NOP's and RUN's decodes to ILLEGAL (R67, R72). -/
theorem decodeCmd_of_illegal {v : Word} (h0 : v ≠ 0) (h1 : v ≠ 1) : decodeCmd v = .illegal v := by
  have hfields := cmdRsvd_append_cmdOpcode v
  rw [decodeCmd]
  split_ifs with hrsvd hnop hrun
  · rfl
  · exact absurd (by rw [← hfields, not_not.mp hrsvd, hnop]; rfl) h0
  · exact absurd (by rw [← hfields, not_not.mp hrsvd, hrun]; rfl) h1
  · rfl

theorem exec_run_idle {s : State} (hb : s.busy = false) : exec .run s = .next (cmdRun s) := next_whenIdle cmdRun hb

/-- RUN's checks in their order, as arithmetic on the operands (R109 to R115). -/
theorem cmdRun_eq (s : State) :
    cmdRun s =
      if s.src.toNat % 4 ≠ 0 then complete 2 s.src (clearProgress s)
      else if s.dst.toNat % 4 ≠ 0 then complete 2 s.dst (clearProgress s)
      else if 2 ^ 32 < s.src.toNat + 4 * s.len.toNat then complete 3 s.src (clearProgress s)
      else if 2 ^ 32 < s.dst.toNat + 4 * s.len.toNat then complete 3 s.dst (clearProgress s)
      else if overlaps s.src s.dst s.len then complete 4 s.dst (clearProgress s)
      else if s.len = 0 then complete 0 0 (clearProgress s)
      else startRun (clearProgress s) := by
  simp only [cmdRun, misaligned_iff, outOfRange_iff, Nat.reducePow]

/-- A RUN that a check ends in an idle block (R146): COUNT and PREV are 0, and only the outcome changes besides. -/
theorem complete_clearProgress_idle {s : State} (c : BitVec 4) (v : Word) (hb : s.busy = false) :
    complete c v (clearProgress s) = { s with count := 0, prev := 0, done := true, errCode := c, errInfo := v } :=
  complete_idle c v (s := clearProgress s) hb

/-- R113's test finds exactly the regions with an address in both. -/
theorem overlaps_iff_shared (src dst len : Word) :
    overlaps src dst len = true ↔
      ∃ a, (src.toNat ≤ a ∧ a < src.toNat + 4 * len.toNat) ∧ (dst.toNat ≤ a ∧ a < dst.toNat + 4 * len.toNat) := by
  rw [overlaps_iff]
  constructor
  · intro h
    exact ⟨max src.toNat dst.toNat, by omega⟩
  · rintro ⟨a, h⟩
    omega

/-- A RUN whose operands pass the checks ends at once when LEN is 0, else starts (R114, R115). -/
theorem cmdRun_of_checked {s : State} (h : s.OperandsChecked) :
    cmdRun s = if s.len = 0 then complete 0 0 (clearProgress s) else startRun (clearProgress s) := by
  obtain ⟨hsrc, hdst, hsrcEnd, hdstEnd, hdisj⟩ := h
  have hsrcSpace : s.src.toNat + 4 * s.len.toNat ≤ 2 ^ 32 := hsrcEnd
  have hdstSpace : s.dst.toNat + 4 * s.len.toNat ≤ 2 ^ 32 := hdstEnd
  simp only [regionEnd] at hdisj
  have hoverlap : ¬ overlaps s.src s.dst s.len = true := by
    rw [overlaps_iff]
    omega
  rw [cmdRun_eq, if_neg (not_not.mpr hsrc), if_neg (not_not.mpr hdst), if_neg (not_lt.mpr hsrcSpace),
    if_neg (not_lt.mpr hdstSpace), if_neg hoverlap]

/-- Aligned operands with LEN = 0 pass the checks, SRC = DST included. -/
theorem operandsChecked_of_empty {s : State} (hsrc : s.src.toNat % 4 = 0) (hdst : s.dst.toNat % 4 = 0)
    (hlen : s.len = 0) : s.OperandsChecked := by
  have hend : ∀ base : Word, regionEnd base s.len = base.toNat := fun _ => by simp [regionEnd, hlen]
  simp only [State.OperandsChecked, hend]
  exact ⟨hsrc, hdst, s.src.isLt.le, s.dst.isLt.le, le_total _ _⟩

/-- Aligned operands in range pass the checks when LEN > 0 and no byte lies in both regions. -/
theorem operandsChecked_of_unshared {s : State} (hsrc : s.src.toNat % 4 = 0) (hdst : s.dst.toNat % 4 = 0)
    (hsrcEnd : s.src.toNat + 4 * s.len.toNat ≤ 2 ^ 32) (hdstEnd : s.dst.toNat + 4 * s.len.toNat ≤ 2 ^ 32)
    (hlen : 0 < s.len.toNat) (hunshared : ¬ overlaps s.src s.dst s.len = true) : s.OperandsChecked := by
  rw [overlaps_iff] at hunshared
  refine ⟨hsrc, hdst, hsrcEnd, hdstEnd, ?_⟩
  simp only [regionEnd]
  omega

end Sys2Proof.Proofs
end

section
/-! SUPPORT. Proofs of the statements of spec/41_commands.md about one command word (R106 to R115). -/

namespace Sys2Proof.Proofs

open Sys2Proof Sys2Proof.Machine

/-- Settles O19: `cmdNop` is the identity; while BUSY the word is frozen like every write of CMD (`exec_eq_setOvr`). -/
theorem nopCommand : Obligations.NopCommand :=
  fun _ => ⟨rfl, next_whenIdle cmdNop, fun hb => exec_eq_setOvr hb rfl⟩

/-- Settles O20: the word decodes to ILLEGAL (`decodeCmd_of_illegal`), whose end leaves an idle block idle
(`complete_idle`); while BUSY it is frozen. -/
theorem illegalCommand : Obligations.IllegalCommand := by
  refine fun s v h0 h1 => ⟨congrArg Except.ok (decodeCmd_of_illegal h0 h1), fun hb => ?_, fun hb => exec_eq_setOvr hb rfl⟩
  calc exec (.illegal v) s = .next (complete 1 v s) := next_whenIdle (cmdIllegal v) hb
    _ = _ := by rw [complete_idle 1 v hb]

/-- Settles O22: the first two checks of `cmdRun_eq`. -/
theorem runChecksAlignment : Obligations.RunChecksAlignment := by
  refine fun s hb => ⟨fun hsrc => ?_, fun hsrc hdst => ?_⟩ <;> rw [exec_run_idle hb, cmdRun_eq]
  · rw [if_pos hsrc, complete_clearProgress_idle 2 s.src hb]
  · rw [if_neg (not_not.mpr hsrc), if_pos hdst, complete_clearProgress_idle 2 s.dst hb]

/-- Settles O23: the third and fourth check of `cmdRun_eq`. -/
theorem runChecksRange : Obligations.RunChecksRange := by
  refine fun s hb hsrc hdst => ⟨fun hsrcEnd => ?_, fun hsrcEnd hdstEnd => ?_⟩ <;>
    rw [exec_run_idle hb, cmdRun_eq, if_neg (not_not.mpr hsrc), if_neg (not_not.mpr hdst)]
  · rw [if_pos hsrcEnd, complete_clearProgress_idle 3 s.src hb]
  · rw [if_neg (not_lt.mpr hsrcEnd), if_pos hdstEnd, complete_clearProgress_idle 3 s.dst hb]

/-- Settles O24: a byte in both regions is what the model's test finds (`overlaps_iff_shared`), the fifth check of
`cmdRun_eq`. -/
theorem runChecksOverlap : Obligations.RunChecksOverlap := by
  intro s hb hsrc hdst hsrcEnd hdstEnd hshared
  rw [exec_run_idle hb, cmdRun_eq, if_neg (not_not.mpr hsrc), if_neg (not_not.mpr hdst), if_neg (not_lt.mpr hsrcEnd),
    if_neg (not_lt.mpr hdstEnd), if_pos ((overlaps_iff_shared _ _ _).mpr hshared),
    complete_clearProgress_idle 4 s.dst hb]

/-- Settles O25: an empty run's operands pass the checks once aligned (`operandsChecked_of_empty`), so it ends at once
(`cmdRun_of_checked`). -/
theorem emptyRunCompletes : Obligations.EmptyRunCompletes := by
  intro s hb hsrc hdst hlen
  rw [exec_run_idle hb, cmdRun_of_checked (operandsChecked_of_empty hsrc hdst hlen), if_pos hlen,
    complete_clearProgress_idle 0 0 hb]

/-- Settles O26: operands in range that share no byte pass the checks (`operandsChecked_of_unshared`), and LEN > 0 starts
the run (`cmdRun_of_checked`), with DONE and so `irq` low. -/
theorem runStarts : Obligations.RunStarts := by
  intro s hb hsrc hdst hsrcEnd hdstEnd hpos hunshared
  have hlen : s.len ≠ 0 := fun h => by simp [h] at hpos
  have hoverlap : ¬ overlaps s.src s.dst s.len = true := by
    rw [overlaps_iff_shared]
    rintro ⟨a, ha, ha'⟩
    exact hunshared a ha ha'
  rw [exec_run_idle hb, cmdRun_of_checked (operandsChecked_of_unshared hsrc hdst hsrcEnd hdstEnd hpos hoverlap),
    if_neg hlen]
  exact ⟨_, rfl, Bool.and_false _, rfl⟩

end Sys2Proof.Proofs
end

section
/-! SUPPORT. A run of several steps, and a write of data memory that keeps clear of a run's buffers. -/

namespace Sys2Proof.Proofs

open Sys2Proof Sys2Proof.Machine

/-! ## Several steps -/

theorem runSteps_zero_iff {s t : State} : runSteps 0 s = .next t ↔ s = t :=
  ⟨Host.Outcome.next.inj, congrArg Host.Outcome.next⟩

/-- The first of `k + 1` steps, then the others. -/
theorem runSteps_succ_iff_first {k : Nat} {s t : State} :
    runSteps (k + 1) s = .next t ↔ ∃ u, step s = .next u ∧ runSteps k u = .next t := by
  have hstep : Sys2Proof.core.step s = step s := rfl
  simp only [runSteps, Host.Core.run, hstep]
  cases step s with
  | next u => exact ⟨fun h => ⟨u, rfl, h⟩, fun ⟨_, hu, h⟩ => Host.Outcome.next.inj hu ▸ h⟩
  | _ => exact ⟨nofun, fun ⟨_, hu, _⟩ => nomatch hu⟩

/-- The first `k` of `k + 1` steps, then the last. -/
theorem runSteps_succ_iff {k : Nat} {s t : State} :
    runSteps (k + 1) s = .next t ↔ ∃ u, runSteps k s = .next u ∧ step u = .next t := by
  induction k generalizing s with
  | zero =>
    simp [runSteps_succ_iff_first, runSteps_zero_iff]
  | succ k ih =>
    rw [runSteps_succ_iff_first]
    simp only [ih, runSteps_succ_iff_first (k := k) (s := s)]
    constructor
    · rintro ⟨v, hv, u, hu, ht⟩
      exact ⟨u, ⟨v, hv, hu⟩, ht⟩
    · rintro ⟨u, ⟨v, hv, hu⟩, ht⟩
      exact ⟨v, hv, u, hu, ht⟩

/-- Writing RUN to CMD of an idle block is one step, which performs `cmdRun` (R97, R109). -/
theorem step_issueRun {s : State} (hb : s.busy = false) (hreset : s.inReset = false) (rest : List Input) :
    step (s.issueRun rest) = .next (cmdRun { s with inputs := rest }) := by
  have haccess : hostAccess ⟨0, 4, true, 0x0C, 1⟩ { s with inputs := rest } = exec (.wrCmd 1) { s with inputs := rest } := by
    simp only [hostAccess, refusalBefore, hreset]
    rfl
  rw [step_access rfl]
  exact haccess.trans (exec_wrCmd_idle 1 (s := { s with inputs := rest }) hb)

/-! ## Writes clear of the buffers -/

theorem wordAt_congr {m m' : Memory} {a : Nat} (h : ∀ k < 4, m.byteAt (a + k) = m'.byteAt (a + k)) :
    m.wordAt a = m'.wordAt a := by
  have h0 : m.byteAt a = m'.byteAt a := h 0 (by decide)
  simp only [Memory.wordAt, h 3 (by decide), h 2 (by decide), h 1 (by decide), h0]

/-- A write with no byte in a region covers none of its samples. -/
theorem not_coversSample_of_outside {a n j : Nat} {base len : Word} (h : ∀ k < n, inRegion base len (a + k) = false)
    (hj : j < len.toNat) : ¬ coversSample a n base j := by
  rintro ⟨c, hc, hsample⟩
  have hin : inRegion base len (a + (c - a)) = true := (inRegion_iff _ _ _).mpr (by omega)
  rw [h (c - a) (by omega)] at hin
  cases hin

/-- A write clear of both buffers affects no output (R58). -/
theorem not_writeAffects_of_outside {s : State} {a n : Nat}
    (h : ∀ k < n, inRegion s.src s.len (a + k) = false ∧ inRegion s.dst s.len (a + k) = false) (j : Nat) :
    ¬ s.writeAffects a n j := by
  rintro (⟨hj, hc⟩ | ⟨hj, hc⟩ | ⟨-, hj, hc⟩)
  · exact not_coversSample_of_outside (fun k hk => (h k hk).2) hj hc
  · exact not_coversSample_of_outside (fun k hk => (h k hk).1) hj hc
  · exact not_coversSample_of_outside (fun k hk => (h k hk).1) hj hc

/-- What a write of data memory leaves is `storeBytes`', but for the count of free values drawn. -/
theorem hostStore_eq_storeBytes {a : Nat} {bytes : List Byte} {s t : State} (h : hostStore a bytes s = .next t) :
    t = { storeBytes a bytes s with freeCount := t.freeCount } := by
  simp only [hostStore] at h
  split_ifs at h <;> cases h <;> rfl

/-- A write during a run that is clear of both buffers races no output and changes only the bytes it covers (R58,
R164). -/
theorem hostStore_outside {a : Nat} {bytes : List Byte} {s t : State} (hst : hostStore a bytes s = .next t)
    (hb : s.busy = true) (hdisj : regionEnd s.src s.len ≤ s.dst.toNat ∨ regionEnd s.dst s.len ≤ s.src.toNat)
    (hcount : s.count.toNat ≤ s.len.toNat) (hout : keepsRules s (.memWrite a bytes)) :
    (∀ j, t.outputRaced j = s.outputRaced j) ∧
    ∀ c, (c < a ∨ a + bytes.length ≤ c) → t.mem.byteAt c = s.mem.byteAt c := by
  obtain ⟨hraced, -, hkept⟩ := storeBytes_spec bytes a s hb hdisj hcount
  rw [hostStore_eq_storeBytes hst]
  refine ⟨fun j => ?_, fun c hc => hkept c hc fun j hj _ _ => ⟨?_, fun h => not_writeAffects_of_outside hout j h.2⟩⟩
  · refine Bool.eq_iff_iff.mpr ((hraced j).trans ?_)
    simp only [not_writeAffects_of_outside hout j, or_false]
  · exact not_coversSample_of_outside (fun k hk => (hout k hk).2) hj

/-- A schedule that keeps the rules writes no byte of a buffer (R163 to R165). -/
theorem not_coversByte_of_keepsRules {s : State} {x : Input} {c : Nat} (hx : keepsRules s x)
    (hc : inRegion s.src s.len c = true ∨ inRegion s.dst s.len c = true) : ¬ coversByte c x := by
  cases x with
  | memWrite a bytes =>
    rintro ⟨hle, hlt⟩
    obtain ⟨hsrc, hdst⟩ := hx (c - a) (by omega)
    rw [Nat.add_sub_cancel' hle] at hsrc hdst
    simp [hsrc, hdst] at hc
  | _ => exact id

end Sys2Proof.Proofs
end

section
/-! SUPPORT. The loop invariant of a run (R120): what holds between its engine steps, under every schedule that keeps the
host's rules, and that every step keeps it or ends the run. -/

namespace Sys2Proof.Proofs

open Sys2Proof Sys2Proof.Machine

/-! ## Memory in the middle of a run -/

/-- Memory `m` after the first `n` outputs of a run issued in `s`: they are R134's, and every other byte is as it was
then, but for those that the schedule's own writes cover. -/
structure Produced (s : State) (rest : List Input) (n : Nat) (m : Memory) : Prop where
  outputs : ∀ j < n, m.wordAt (s.dst.toNat + 4 * j) = outputAt s s.mem j
  frame : ∀ a, (a < s.dst.toNat ∨ s.dst.toNat + 4 * n ≤ a) → (∀ x ∈ rest, ¬ coversByte a x) →
    m.byteAt a = s.mem.byteAt a

theorem produced_zero (s : State) (rest : List Input) : Produced s rest 0 s.mem :=
  ⟨fun _ hj => absurd hj (Nat.not_lt_zero _), fun _ _ _ => rfl⟩

variable {s : State} {rest : List Input} {n : Nat} {m : Memory}

/-- Whatever is written to word `n`, the outputs before it and the frame around the first `n + 1` words stay. -/
theorem Produced.setWord_keeps (h : Produced s rest n m) (y : Word) :
    (∀ j < n, (m.setWord (s.dst.toNat + 4 * n) y).wordAt (s.dst.toNat + 4 * j) = outputAt s s.mem j) ∧
    ∀ a, (a < s.dst.toNat ∨ s.dst.toNat + 4 * (n + 1) ≤ a) → (∀ x ∈ rest, ¬ coversByte a x) →
      (m.setWord (s.dst.toNat + 4 * n) y).byteAt a = s.mem.byteAt a := by
  refine ⟨fun j hj => ?_, fun a ha huncovered => ?_⟩
  · rw [Memory.wordAt_setWord_ne m y (by omega)]
    exact h.outputs j hj
  · rw [Memory.byteAt_setWord_ne m y (by omega)]
    exact h.frame a (by omega) huncovered

/-- Writing output `n` produces one more. -/
theorem Produced.setWord (h : Produced s rest n m) :
    Produced s rest (n + 1) (m.setWord (s.dst.toNat + 4 * n) (outputAt s s.mem n)) := by
  obtain ⟨hbefore, hframe⟩ := h.setWord_keeps (outputAt s s.mem n)
  refine ⟨fun j hj => ?_, hframe⟩
  rcases Nat.lt_succ_iff_lt_or_eq.mp hj with hlt | rfl
  · exact hbefore j hlt
  · exact Memory.wordAt_setWord _ _ _

/-- The input words are still those of the moment the run was issued: the buffers share no byte, and the schedule keeps
clear of both (R113, R164). -/
theorem Produced.inputAt_eq (h : Produced s rest n m) (hrules : ∀ x ∈ rest, keepsRules s x) (hchk : s.OperandsChecked)
    (hn : n ≤ s.len.toNat) {i : Nat} (hi : i < s.len.toNat) : inputAt s m i = inputAt s s.mem i := by
  obtain ⟨-, -, -, -, hdisj⟩ := hchk
  simp only [regionEnd] at hdisj
  refine wordAt_congr fun k hk => h.frame _ (by omega) fun x hx => ?_
  exact not_coversByte_of_keepsRules (hrules x hx) (.inl ((inRegion_iff _ _ _).mpr (by omega)))

/-- A write that changes only bytes its own input covers leaves what the run has produced. -/
theorem Produced.of_covered (h : Produced s rest n m) (hrules : ∀ x ∈ rest, keepsRules s x) (hn : n ≤ s.len.toNat)
    {m' : Memory} {x : Input} (hx : x ∈ rest) (hkept : ∀ c, ¬ coversByte c x → m'.byteAt c = m.byteAt c) :
    Produced s rest n m' := by
  refine ⟨fun j hj => ?_, fun a ha huncovered => (hkept a (huncovered x hx)).trans (h.frame a ha huncovered)⟩
  refine (wordAt_congr fun k hk => hkept _ ?_).trans (h.outputs j hj)
  exact not_coversByte_of_keepsRules (hrules x hx) (.inr ((inRegion_iff _ _ _).mpr (by omega)))

/-! ## The invariant -/

/-- State `u` of a run issued in `s` under the schedule `rest`, between two of its engine steps (R116, R120). -/
structure InRun (s : State) (rest : List Input) (u : State) : Prop where
  busy : u.busy = true
  coef : u.coef = s.coef
  src : u.src = s.src
  dst : u.dst = s.dst
  len : u.len = s.len
  count_lt : u.count.toNat < s.len.toNat
  inputs : ∀ x ∈ u.inputs, x ∈ rest
  unraced : ∀ j, u.outputRaced j = false
  prev : u.prev = if u.count.toNat = 0 then 0 else inputAt s s.mem (u.count.toNat - 1)
  produced : Produced s rest u.count.toNat u.mem

/-- State `t` has ended the run issued in `s`, with code 0 only if every output is produced (R119, R120). -/
def RunEnded (s : State) (rest : List Input) (t : State) : Prop :=
  t.busy = false ∧ (t.errCode = 0 → Produced s rest s.len.toNat t.mem)

/-- The state in which a run starts (R115). -/
theorem inRun_startRun (hlen : s.len ≠ 0) : InRun s rest (startRun (clearProgress { s with inputs := rest })) where
  busy := rfl
  coef := rfl
  src := rfl
  dst := rfl
  len := rfl
  count_lt := Nat.pos_of_ne_zero fun h => hlen (BitVec.eq_of_toNat_eq h)
  inputs := fun _ hx => hx
  unraced := fun _ => by simp [State.outputRaced]
  prev := rfl
  produced := produced_zero s rest

/-- The invariant reads only the run's own registers, memory and races, so a change of anything else keeps it. -/
theorem InRun.of_eq {u t : State} (h : InRun s rest u)
    (ht : t = { u with
      irqEn := t.irqEn, done := t.done, ovr := t.ovr, readData := t.readData, busErrs := t.busErrs,
      inReset := t.inReset, inputs := t.inputs, freeCount := t.freeCount })
    (hinputs : ∀ x ∈ t.inputs, x ∈ rest) : InRun s rest t := by
  rw [ht]
  exact { h with inputs := hinputs }

variable {u t : State}

/-! ## The engine's step -/

/-- What the engine reads next is the input word of the moment the run was issued. -/
theorem InRun.inputWord_eq (h : InRun s rest u) (hrules : ∀ x ∈ rest, keepsRules s x) (hchk : s.OperandsChecked) :
    u.inputWord u.index = inputAt s s.mem u.count.toNat := by
  rw [← h.produced.inputAt_eq hrules hchk h.count_lt.le h.count_lt, State.inputWord, h.src]
  rfl

/-- What the engine writes next is R134's output word. -/
theorem InRun.outputWord_eq (h : InRun s rest u) :
    u.outputWord u.index (inputAt s s.mem u.count.toNat) = outputAt s s.mem u.count.toNat := by
  rw [State.outputWord, h.unraced, h.prev, h.coef]
  rfl

theorem InRun.writeAddr_eq (h : InRun s rest u) : u.writeAddr = s.dst.toNat + 4 * u.count.toNat := by
  rw [Machine.writeAddr_eq, h.dst]

theorem InRun.readAddr_eq (h : InRun s rest u) : u.readAddr = s.src.toNat + 4 * u.count.toNat := by
  rw [Machine.readAddr_eq, h.src]

/-- A sample done is one more output produced, and COUNT and PREV move on. -/
theorem InRun.advance_eq (h : InRun s rest u) (hrules : ∀ x ∈ rest, keepsRules s x) (hchk : s.OperandsChecked) :
    advance u (u.inputWord u.index) =
      { u with
        mem := u.mem.setWord (s.dst.toNat + 4 * u.count.toNat) (outputAt s s.mem u.count.toNat),
        prev := inputAt s s.mem u.count.toNat, count := u.count + 1 } := by
  rw [Machine.advance_eq, h.inputWord_eq hrules hchk, h.outputWord_eq, h.writeAddr_eq, h.unraced]
  rfl

/-- COUNT does not wrap in a run. -/
theorem InRun.count_succ (h : InRun s rest u) :
    (u.count + 1).toNat = u.count.toNat + 1 ∧ (u.count + 1 = u.len ↔ u.count.toNat + 1 = s.len.toNat) := by
  rw [h.len]
  exact Machine.count_succ h.count_lt

/-- The step that does a sample other than the last keeps the invariant. -/
theorem InRun.advance_keeps (h : InRun s rest u) (hrules : ∀ x ∈ rest, keepsRules s x) (hchk : s.OperandsChecked)
    (hlast : u.count + 1 ≠ u.len) : InRun s rest (advance u (u.inputWord u.index)) := by
  obtain ⟨hcount, hend⟩ := h.count_succ
  rw [hend.ne] at hlast
  have hlt := h.count_lt
  rw [h.advance_eq hrules hchk]
  refine { h with count_lt := ?_, prev := ?_, produced := ?_ }
  · show (u.count + 1).toNat < _
    omega
  · show _ = if (u.count + 1).toNat = 0 then _ else inputAt s s.mem ((u.count + 1).toNat - 1)
    rw [hcount]
    rfl
  · show Produced s rest (u.count + 1).toNat _
    rw [hcount]
    exact h.produced.setWord

/-- The last sample's step leaves every output. -/
theorem InRun.advance_last_produced (h : InRun s rest u) (hrules : ∀ x ∈ rest, keepsRules s x) (hchk : s.OperandsChecked)
    (hlast : u.count + 1 = u.len) : Produced s rest s.len.toNat (advance u (u.inputWord u.index)).mem := by
  rw [h.advance_eq hrules hchk, ← h.count_succ.2.mp hlast]
  exact h.produced.setWord

/-- An engine step of a run keeps the invariant or ends the run, with code 0 only when every output is produced. -/
theorem InRun.engineStep_keeps_or_ends (h : InRun s rest u) (hrules : ∀ x ∈ rest, keepsRules s x) (hchk : s.OperandsChecked)
    (hstep : engineStep u = .next t) :
    InRun s rest t ∨ RunEnded s rest t := by
  obtain ⟨-, ⟨-, rfl⟩ | ⟨-, -, ⟨-, rfl⟩ | ⟨-, ⟨hlast, rfl⟩ | ⟨hlast, rfl⟩⟩⟩⟩ := engineStep_cases hstep
  · exact .inr ⟨rfl, fun h5 => absurd h5 (show (5 : BitVec 4) ≠ 0 by decide)⟩
  · exact .inr ⟨rfl, fun h6 => absurd h6 (show (6 : BitVec 4) ≠ 0 by decide)⟩
  · exact .inr ⟨rfl, fun _ => h.advance_last_produced hrules hchk hlast⟩
  · exact .inl (h.advance_keeps hrules hchk hlast)

/-! ## Every other step -/

/-- A write of data memory that keeps the rules keeps the invariant. -/
theorem InRun.hostStore_keeps {a : Nat} {bytes : List Byte} (h : InRun s rest u) (hrules : ∀ x ∈ rest, keepsRules s x)
    (hchk : s.OperandsChecked) (hmem : .memWrite a bytes ∈ rest) (hst : hostStore a bytes u = .next t) :
    InRun s rest t := by
  obtain ⟨-, -, -, -, hdisj⟩ := hchk
  have hcount := h.count_lt.le
  have hout : keepsRules u (.memWrite a bytes) := by
    simpa only [keepsRules, h.src, h.dst, h.len] using hrules _ hmem
  obtain ⟨hraced, hkept⟩ := hostStore_outside hst h.busy (by rwa [h.src, h.dst, h.len]) (by rwa [h.len]) hout
  have hproduced := h.produced.of_covered hrules hcount hmem fun c hc => hkept c (by simp only [coversByte] at hc; omega)
  have ht := hostStore_eq hst
  generalize t.mem = m, t.racedIn = racedIn, t.racedOut = racedOut, t.freeCount = freeCount at ht hproduced
  subst ht
  exact { h with unraced := fun j => (hraced j).trans (h.unraced j), produced := hproduced }

/-- Every step under a schedule that keeps the rules keeps the invariant or ends the run (R120). -/
theorem InRun.step_keeps_or_ends (h : InRun s rest u) (hrules : ∀ x ∈ rest, keepsRules s x) (hchk : s.OperandsChecked)
    (hstep : step u = .next t) :
    InRun s rest t ∨ RunEnded s rest t := by
  obtain ⟨r, hr, hcases⟩ := step_cases hstep
  have hrest : ∀ x ∈ r, x ∈ rest := fun x hx => h.inputs x <| by
    rcases hr with hr | ⟨y, hr⟩ <;> rw [hr]
    · exact hx
    · exact List.mem_cons_of_mem y hx
  have hfirst : ∀ {x}, u.inputs = x :: r → x ∈ rest := fun hx => h.inputs _ (hx ▸ List.mem_cons_self)
  have hv : InRun s rest { u with inputs := r } := h.of_eq rfl hrest
  have hinstr : ∀ {i}, exec i { u with inputs := r } = .next t → InRun s rest t := fun hex => by
    have ht := exec_busy_frame hex hv.busy
    exact hv.of_eq (by rw [ht]) (by rw [ht]; exact hrest)
  rcases hcases with ⟨-, heng, -⟩ | ⟨hidle, -⟩ | ⟨_, _, -, -, -, -, hex⟩ | ⟨_, -, -, hex⟩ | ⟨f, hin, -⟩ | ⟨-, rfl⟩ |
    ⟨_, _, hin, hst⟩ | ⟨_, -, hld⟩ | ⟨_, -, rfl⟩
  · exact hv.engineStep_keeps_or_ends hrules hchk heng
  · rw [h.busy] at hidle
    cases hidle
  · exact .inl (hinstr hex)
  · exact .inl (hinstr hex)
  · exact (hrules _ (hfirst hin)).elim
  · exact .inl (hv.of_eq rfl hrest)
  · exact .inl (hv.hostStore_keeps hrules hchk (hfirst hin) hst)
  · have ht := hostLoad_eq hld
    exact .inl (hv.of_eq (by rw [ht]) (by rw [ht]; exact hrest))
  · exact .inl (hv.of_eq rfl hrest)

end Sys2Proof.Proofs
end

section
/-! SUPPORT. A whole run: from its RUN word under any schedule, and by the engine alone up to a BusError (R117, R118,
R120). -/

namespace Sys2Proof.Proofs

open Sys2Proof Sys2Proof.Machine

variable {s : State} {rest : List Input} {u t : State}

/-! ## Under any schedule -/

/-- Writing RUN with operands that pass the checks starts the run, or ends it at once when LEN is 0 (R114, R115). -/
theorem step_issueRun_checked (hb : s.busy = false) (hreset : s.inReset = false) (hchk : s.OperandsChecked)
    (rest : List Input) :
    step (s.issueRun rest) = .next (if s.len = 0 then complete 0 0 (clearProgress { s with inputs := rest })
      else startRun (clearProgress { s with inputs := rest })) := by
  rw [step_issueRun hb hreset]
  exact congrArg Host.Outcome.next (cmdRun_of_checked (s := { s with inputs := rest }) hchk)

/-- A run that is BUSY up to its last step but one is in progress after that step or ended by it. -/
theorem inRun_or_ended_of_runSteps (hb : s.busy = false) (hreset : s.inReset = false) (hchk : s.OperandsChecked)
    (hrules : ∀ x ∈ rest, keepsRules s x) {k : Nat}
    (hbusy : ∀ j < k, ∃ u, runSteps (j + 1) (s.issueRun rest) = .next u ∧ u.busy = true)
    (hrun : runSteps (k + 1) (s.issueRun rest) = .next t) : InRun s rest t ∨ RunEnded s rest t := by
  obtain ⟨u, hu, hstep⟩ := runSteps_succ_iff.mp hrun
  induction k generalizing u t with
  | zero =>
    obtain rfl := runSteps_zero_iff.mp hu
    obtain rfl := Host.Outcome.next.inj ((step_issueRun_checked hb hreset hchk rest).symm.trans hstep)
    split_ifs with hlen
    · refine .inr ⟨rfl, fun _ => ?_⟩
      rw [hlen]
      exact produced_zero s rest
    · exact .inl (inRun_startRun hlen)
  | succ k ih =>
    obtain ⟨u', hu', hub⟩ := hbusy k (Nat.lt_succ_self k)
    obtain rfl := Host.Outcome.next.inj (hu'.symm.trans hu)
    obtain ⟨v, hv, hvstep⟩ := runSteps_succ_iff.mp hu
    rcases ih (fun j hj => hbusy j (Nat.lt_succ_of_lt hj)) hu v hv hvstep with hin | ⟨hidle, -⟩
    · exact hin.step_keeps_or_ends hrules hchk hstep
    · rw [hub] at hidle
      cases hidle

/-! ## By the engine alone -/

/-- With nothing scheduled, the step of a run in progress is the engine's (R169). -/
theorem InRun.step_eq_engineStep (h : InRun s [] u) : step u = engineStep u := by
  rw [step_nil (List.eq_nil_iff_forall_not_mem.mpr fun x hx => List.not_mem_nil (h.inputs x hx)), engineTurn_busy h.busy]

/-- The engine's step in a run whose platform state is still that of its RUN word: its two accesses lie in the address
space, so only a BusError or the last sample ends the run (R116 to R119). -/
theorem InRun.engineStep_eq (h : InRun s rest u) (hchk : s.OperandsChecked) (herrs : u.busErrs = s.busErrs) :
    engineStep u =
      if s.busError .read (s.src.toNat + 4 * u.count.toNat) then .next (readError u)
      else if s.busError .write (s.dst.toNat + 4 * u.count.toNat) then .next (writeError u)
      else if u.count + 1 = u.len then .next (endRun 0 0 (advance u (u.inputWord u.index)))
      else .next (advance u (u.inputWord u.index)) := by
  obtain ⟨hsrc, hdst, hsrcEnd, hdstEnd, -⟩ := hchk
  have hreadSpace : u.readAddr + 4 ≤ addrLimit :=
    h.readAddr_eq ▸ (sampleAddr_aligned_inSpace hsrc hsrcEnd h.count_lt).2
  have hwriteSpace : u.writeAddr + 4 ≤ addrLimit :=
    h.writeAddr_eq ▸ (sampleAddr_aligned_inSpace hdst hdstEnd h.count_lt).2
  have herr : ∀ k a, u.busError k a = s.busError k a := fun _ _ => by rw [State.busError, herrs, State.busError]
  have hcount : (advance u (u.inputWord u.index)).count = u.count + 1 := by rw [Machine.advance_eq]
  rw [engineStep, if_neg (not_lt.mpr hreadSpace), if_neg (not_lt.mpr hwriteSpace), herr, herr, h.readAddr_eq,
    h.writeAddr_eq]
  dsimp only
  rw [hcount]

/-- A write that answers BusError leaves any value in the word of the current sample (R118, R142). -/
theorem InRun.writeError_mem (h : InRun s rest u) :
    (writeError u).mem =
      u.mem.setWord (s.dst.toNat + 4 * u.count.toNat) (Config.freeWord .failedWrite u.freeCount u.index) := by
  rw [← h.writeAddr_eq]
  rfl

/-- Without a BusError before sample `i`, the engine alone comes to sample `i` in `i` steps after the RUN word. -/
theorem run_reaches_sample (hb : s.busy = false) (hreset : s.inReset = false) (hchk : s.OperandsChecked) {i : Nat}
    (hi : i < s.len.toNat)
    (hok : ∀ j < i, s.busError .read (s.src.toNat + 4 * j) = false ∧ s.busError .write (s.dst.toNat + 4 * j) = false) :
    ∃ u, runSteps (i + 1) (s.issueRun []) = .next u ∧ InRun s [] u ∧ u.count.toNat = i ∧ u.busErrs = s.busErrs := by
  induction i with
  | zero =>
    have hlen : s.len ≠ 0 := fun h => by simp [h] at hi
    refine ⟨_, runSteps_succ_iff.mpr ⟨_, rfl, ?_⟩, inRun_startRun hlen, rfl, rfl⟩
    rw [step_issueRun_checked hb hreset hchk, if_neg hlen]
  | succ i ih =>
    obtain ⟨u, hu, hin, hcount, herrs⟩ := ih (by omega) fun j hj => hok j (by omega)
    obtain ⟨hread, hwrite⟩ := hok i (Nat.lt_succ_self i)
    obtain ⟨hsucc, hend⟩ := hin.count_succ
    have hlast : u.count + 1 ≠ u.len := mt hend.mp (by omega)
    have hnone : ∀ x ∈ [], keepsRules s x := fun _ => nofun
    have hstep : engineStep u = .next (advance u (u.inputWord u.index)) := by
      rw [hin.engineStep_eq hchk herrs, hcount, hread, hwrite, if_neg hlast]
      rfl
    refine ⟨_, runSteps_succ_iff.mpr ⟨u, hu, hin.step_eq_engineStep.trans hstep⟩, hin.advance_keeps hnone hchk hlast, ?_⟩
    rw [hin.advance_eq hnone hchk]
    exact ⟨hsucc.trans (by rw [hcount]), herrs⟩

/-- An address of a sample is its word in ERR_INFO, exactly (R117, R118). -/
theorem addrWord_toNat {base len : Word} {i : Nat} (hspace : regionEnd base len ≤ addrLimit) (hi : i < len.toNat) :
    (addrWord (base.toNat + 4 * i)).toNat = base.toNat + 4 * i := by
  rw [addrWord, BitVec.toNat_ofNat]
  simp only [regionEnd, addrLimit_eq] at hspace
  omega

end Sys2Proof.Proofs
end

section
/-! SUPPORT. Proofs of the statements of spec/41_commands.md about a whole run: under any schedule that keeps the host's
rules (R120), and up to its first BusError (R117, R118). -/

namespace Sys2Proof.Proofs

open Sys2Proof Sys2Proof.Machine

/-- Settles O58: by induction on the steps, the run is in progress with the invariant `InRun` or has ended
(`inRun_or_ended_of_runSteps`); ended with code 0 it has produced every output, and `Produced` is the two claims. -/
theorem runUnderAnySchedule : Obligations.RunUnderAnySchedule := by
  intro s t rest k hb hreset hchk hrules hbusy hrun hidle hcode
  rcases inRun_or_ended_of_runSteps hb hreset hchk hrules hbusy hrun with hin | ⟨-, hproduced⟩
  · rw [hin.busy] at hidle
    cases hidle
  · exact ⟨(hproduced hcode).outputs, (hproduced hcode).frame⟩

/-- Settles O60: the engine comes to sample `i` with the invariant (`run_reaches_sample`), and its next step is the
error's (`InRun.engineStep_eq`), which keeps COUNT, PREV and what is produced; a write error replaces word `i` alone
(`Produced.setWord_keeps`). -/
theorem busErrorsArePrecise : Obligations.BusErrorsArePrecise := by
  intro s i hb hreset hchk hi hok
  obtain ⟨u, hu, hin, hcount, herrs⟩ := run_reaches_sample hb hreset hchk hi hok
  have hprev : u.prev = if i = 0 then 0 else inputAt s s.mem (i - 1) := hcount ▸ hin.prev
  have hproduced : Produced s [] i u.mem := hcount ▸ hin.produced
  have hlast : ∀ {t}, engineStep u = .next t → runSteps (i + 2) (s.issueRun []) = .next t := fun ht =>
    runSteps_succ_iff.mpr ⟨u, hu, hin.step_eq_engineStep.trans ht⟩
  have hstep := hin.engineStep_eq hchk herrs
  have hnone : ∀ a, ∀ x ∈ [], ¬ coversByte a x := fun _ _ => nofun
  obtain ⟨-, -, hsrcEnd, hdstEnd, -⟩ := hchk
  rw [hcount] at hstep
  refine ⟨fun hread => ⟨readError u, hlast ?_, rfl, rfl, rfl, ?_, hcount, hprev, hproduced.outputs, fun a ha => ?_⟩,
    fun hread hwrite => ?_⟩
  · rw [hstep, if_pos hread]
  · rw [readError, endRun_errInfo, hin.readAddr_eq, hcount, addrWord_toNat hsrcEnd hi]
  · exact hproduced.frame a ha (hnone a)
  · obtain ⟨hbefore, hframe⟩ := hproduced.setWord_keeps (Config.freeWord .failedWrite u.freeCount u.index)
    rw [← hcount, ← hin.writeError_mem, hcount] at hbefore hframe
    refine ⟨writeError u, hlast ?_, rfl, rfl, rfl, ?_, hcount, hprev, hbefore, fun a ha => hframe a ha (hnone a)⟩
    · simp [hstep, hread, hwrite]
    · rw [writeError, endRun_errInfo, hin.writeAddr_eq, hcount, addrWord_toNat hdstEnd hi]

end Sys2Proof.Proofs
end

section
/-! SUPPORT. The rules of the filter (spec/42_fir_sample.md, R122, R124, R130 to R134): which words are zero, the samples
of `preemph`, and where `roundMag` stands among the binary32 magnitudes. -/

namespace Sys2Proof.Proofs

open Sys2Proof Sys2Proof.Machine

/-- R123: the two words of value zero. -/
theorem isZero_iff (w : Word) : isZero w = true ↔ w = 0x00000000 ∨ w = 0x80000000 := by
  simp [isZero, ← BitVec.toNat_inj]
  omega

@[simp] theorem fir_first (x p c : Word) : fir 0 x p c = x := rfl

theorem fir_of_isZero (i : Nat) (x p : Word) {c : Word} (h : isZero c = true) : fir i x p c = x := by
  simp [fir, firWith, h]

theorem fir_general {i : Nat} (x p : Word) {c : Word} (hi : 1 ≤ i) (h : isZero c = false) :
    fir i x p c = f32Sub x (f32Mul c p) := by
  simp [fir, firWith, Config.fusedMac, Nat.ne_of_gt hi, h]

@[simp] theorem preemphFrom_length (k : Nat) (p c : Word) (xs : List Word) :
    (preemphFrom k p c xs).length = xs.length := by
  induction xs generalizing k p with
  | nil => rfl
  | cons x xs ih => simp [preemphFrom, ih]

/-- The outputs from sample `k` on: each is `fir` of its own input and the one before it, `p` before the first. -/
theorem preemphFrom_getElem? (k : Nat) (p c : Word) (xs : List Word) (i : Nat) (h : i < xs.length) :
    (preemphFrom k p c xs)[i]? = some (fir (k + i) xs[i] (if i = 0 then p else xs[i - 1]) c) := by
  induction xs generalizing k p i with
  | nil => cases h
  | cons x xs ih =>
    cases i with
    | zero => rfl
    | succ i =>
      have hrec := ih (k + 1) x i (Nat.lt_of_succ_lt_succ h)
      cases i <;> simpa [preemphFrom, Nat.add_assoc, Nat.add_comm 1] using hrec

/-! ### The binary32 magnitudes and rounding among them -/

/-- R122: the magnitude of the significand `m` at the spacing 2^t; the pattern t·2^23 + m carries over from `m = 2^24` to
the next exponent. -/
theorem magUnits_significand {t m : Nat} (hm : m ≤ 16777216) (hnormal : t = 0 ∨ 8388608 ≤ m) :
    magUnits (t * 8388608 + m) = m * 2 ^ t := by
  obtain hlow | hmid | rfl : m < 8388608 ∨ (8388608 ≤ m ∧ m < 16777216) ∨ m = 16777216 := by omega
  · obtain rfl : t = 0 := by omega
    simp [magUnits, hlow]
  · have hexp : (t * 8388608 + m) / 8388608 = t + 1 := by omega
    have hfrac : 8388608 + (t * 8388608 + m) % 8388608 = m := by omega
    simp only [magUnits, hexp, hfrac, Nat.add_eq_zero_iff, one_ne_zero, and_false, if_false, Nat.add_sub_cancel]
  · have hexp : (t * 8388608 + 16777216) / 8388608 = t + 2 := by omega
    simp [magUnits, hexp, Nat.pow_succ]
    omega

/-- Every pattern is that of a significand, which is below 2^23 at the smallest spacing alone. -/
theorem exists_significand (b : Nat) :
    ∃ t m, m < 16777216 ∧ (t = 0 ∨ 8388608 ≤ m) ∧ b = t * 8388608 + m := by
  by_cases h : b < 8388608
  · exact ⟨0, b, by omega, .inl rfl, by omega⟩
  · exact ⟨b / 8388608 - 1, b % 8388608 + 8388608, by omega, .inr (by omega), by omega⟩

/-- The patterns stand in the order of their magnitudes. -/
theorem magUnits_strictMono : StrictMono magUnits := by
  refine strictMono_nat_of_lt_succ fun b => ?_
  obtain ⟨t, m, hm, hnormal, rfl⟩ := exists_significand b
  rw [magUnits_significand (by omega) hnormal, Nat.add_assoc, magUnits_significand (by omega) (by omega)]
  exact Nat.mul_lt_mul_of_pos_right (Nat.lt_succ_self m) (Nat.two_pow_pos t)

/-- `roundMag`'s quotient is a significand of the spacing it chooses. -/
theorem quotient_is_significand {n q t : Nat} (hn : 0 < n) (ht : n.log2 - (q + 23) = t) :
    n / 2 ^ (t + q) < 2 ^ 24 ∧ (t = 0 ∨ 2 ^ 23 ≤ n / 2 ^ (t + q)) := by
  constructor
  · rw [Nat.div_lt_iff_lt_mul (Nat.two_pow_pos _), ← Nat.pow_add, ← Nat.log2_lt (Nat.ne_of_gt hn)]
    omega
  · refine or_iff_not_imp_left.mpr fun hpos => ?_
    rw [Nat.le_div_iff_mul_le (Nat.two_pow_pos _), ← Nat.pow_add, ← Nat.le_log2 (Nat.ne_of_gt hn)]
    omega

/-- The magnitude of the pattern `b` in the units of `roundMag n q`, 2^-q units of 2^-149. -/
def scaledMag (q b : Nat) : Nat := magUnits b * 2 ^ q

theorem scaledMag_strictMono (q : Nat) : StrictMono (scaledMag q) := fun _ _ h =>
  Nat.mul_lt_mul_of_pos_right (magUnits_strictMono h) (Nat.two_pow_pos q)

/-- R124: `n` lies between the magnitudes of a pattern `p` and the next; `roundMag` takes the next if it is the nearer, or
as near and `p` odd, and is capped at the pattern of 2^128. -/
theorem roundMag_between {n : Nat} (q : Nat) (hn : 0 < n) :
    ∃ p, scaledMag q p ≤ n ∧ n < scaledMag q (p + 1) ∧
      roundMag n q = min (if scaledMag q p + scaledMag q (p + 1) < 2 * n ∨
        (scaledMag q p + scaledMag q (p + 1) = 2 * n ∧ p % 2 = 1) then p + 1 else p) 0x7F800000 := by
  simp only [roundMag]
  generalize ht : n.log2 - (q + 23) = t
  obtain ⟨hm, hnormal⟩ := quotient_is_significand hn ht
  have hlow : scaledMag q (t * 8388608 + n / 2 ^ (t + q)) = 2 ^ (t + q) * (n / 2 ^ (t + q)) := by
    rw [scaledMag, magUnits_significand (by omega) hnormal, Nat.mul_assoc, ← Nat.pow_add, Nat.mul_comm]
  have hhigh : scaledMag q (t * 8388608 + n / 2 ^ (t + q) + 1) =
      2 ^ (t + q) * (n / 2 ^ (t + q)) + 2 ^ (t + q) := by
    rw [scaledMag, Nat.add_assoc, magUnits_significand (by omega) (by omega), Nat.mul_assoc, ← Nat.pow_add,
      Nat.mul_comm, Nat.mul_add_one]
  have hdiv := Nat.div_add_mod n (2 ^ (t + q))
  have hmod := Nat.mod_lt n (Nat.two_pow_pos (t + q))
  refine ⟨t * 8388608 + n / 2 ^ (t + q), by omega, by omega, ?_⟩
  rw [hlow, hhigh]
  congr 1
  split <;> split <;> omega

/-- A cut of a strictly rising sequence at `n`, and the term taken at the cut or after it, whichever is nearer, the even
one of two as near: no other term is nearer, and one as near means the term taken is even. -/
theorem nearest_of_between {f : Nat → Nat} (hf : StrictMono f) {n p : Nat} (hlow : f p ≤ n)
    (hhigh : n < f (p + 1)) (b r : Nat)
    (hr : r = if f p + f (p + 1) < 2 * n ∨ (f p + f (p + 1) = 2 * n ∧ p % 2 = 1) then p + 1 else p) :
    ((n : Int) - f r).natAbs ≤ ((n : Int) - f b).natAbs ∧
      (((n : Int) - f b).natAbs = ((n : Int) - f r).natAbs → b ≠ r → r % 2 = 0) := by
  have hplace : f b < f p ∨ (b = p ∧ f b = f p) ∨ (b = p + 1 ∧ f b = f (p + 1)) ∨ f (p + 1) < f b := by
    obtain hb | rfl | rfl | hb : b < p ∨ b = p ∨ b = p + 1 ∨ p + 1 < b := by omega
    · exact .inl (hf hb)
    · exact .inr (.inl ⟨rfl, rfl⟩)
    · exact .inr (.inr (.inl ⟨rfl, rfl⟩))
    · exact .inr (.inr (.inr (hf hb)))
  split at hr
  · subst hr
    omega
  · subst hr
    omega

/-- R124 on patterns: `roundMag` answers a nearest one of the finite magnitudes and 2^128, the even one of two. -/
theorem roundMag_nearest {n b : Nat} (q : Nat) (hn : 0 < n) (hb : b ≤ 0x7F800000) :
    ((n : Int) - scaledMag q (roundMag n q)).natAbs ≤ ((n : Int) - scaledMag q b).natAbs ∧
      (((n : Int) - scaledMag q b).natAbs = ((n : Int) - scaledMag q (roundMag n q)).natAbs → b ≠ roundMag n q →
        roundMag n q % 2 = 0) := by
  obtain ⟨p, hlow, hhigh, hround⟩ := roundMag_between q hn
  by_cases hp : p < 0x7F800000
  · rw [min_eq_left (by split <;> omega)] at hround
    exact nearest_of_between (scaledMag_strictMono q) hlow hhigh b _ hround
  · have hcap : roundMag n q = 0x7F800000 := by rw [hround, min_eq_right (by split <;> omega)]
    have hmax := (scaledMag_strictMono q).monotone (Nat.le_of_not_lt hp)
    have hle := (scaledMag_strictMono q).monotone hb
    rw [hcap]
    omega

theorem roundMag_le (n q : Nat) : roundMag n q ≤ 0x7F800000 := Nat.min_le_right ..

@[simp] theorem round32_sign (neg : Bool) (n q : Nat) : (round32 neg n q).getLsbD 31 = neg := by
  rw [round32, BitVec.getLsbD_append]
  simp

@[simp] theorem round32_pattern (neg : Bool) (n q : Nat) :
    ((round32 neg n q).extractLsb' 0 31).toNat = roundMag n q := by
  have h := roundMag_le n q
  rw [round32, BitVec.extractLsb'_append_eq_right, BitVec.toNat_ofNat]
  omega

end Sys2Proof.Proofs
end

section
/-! SUPPORT. Proofs of the statements of spec/42_fir_sample.md about one sample, a sequence, and the one rounding. -/

namespace Sys2Proof.Proofs

open Sys2Proof Sys2Proof.Machine

/-- Settles O48: the sign and the pattern are `round32`'s two fields, and the pattern is a nearest one
(`roundMag_nearest`), since `roundMag` cuts the magnitudes at `n` and they rise strictly. -/
theorem roundsToNearestEven : Obligations.RoundsToNearestEven := by
  intro neg n q hn
  simp only [round32_sign, round32_pattern, roundMag_le, true_and]
  intro b hb
  simpa [scaledMag] using roundMag_nearest q hn hb

/-- Settles O44, from `preemphFrom_getElem?`, an induction on the inputs, at sample 0 with no input before it. -/
theorem preemphElementwise : Obligations.PreemphElementwise := fun xs c =>
  ⟨preemphFrom_length 0 0 c xs, fun i h => by simpa [preemph] using preemphFrom_getElem? 0 0 c xs i h⟩

/-- Settles O43: +0 and -0 are the words of value zero (`isZero_iff`). -/
theorem firCases : Obligations.FirCases :=
  ⟨fir_first, fun i x p c hc => fir_of_isZero i x p ((isZero_iff c).mpr hc), fun _ x p c hi hpos hneg =>
    fir_general x p hi (Bool.eq_false_iff.mpr fun hc => ((isZero_iff c).mp hc).elim hpos hneg)⟩

end Sys2Proof.Proofs
end

section
/-! SUPPORT. Proof of the statement of spec/70_reset_and_hazards.md about a RUN issued straight after reset (R161). -/

namespace Sys2Proof.Proofs

open Sys2Proof Sys2Proof.Machine

/-- Settles O53: the reset values are R44's, and among them LEN = 0, so the RUN is the empty run of R114
(`emptyRunCompletes`); COUNT, PREV, ERRCODE and ERRINFO, which it clears, are 0 already. -/
theorem runAfterReset : Obligations.RunAfterReset :=
  ⟨rfl, rfl, rfl, rfl, rfl, rfl, emptyRunCompletes State.reset rfl rfl rfl rfl⟩

end Sys2Proof.Proofs
end

section
/-! SUPPORT. The encoder and the decoder against each other, and what the host's port runs. -/

namespace Sys2Proof.Proofs

open Sys2Proof Sys2Proof.Machine

/-! ## Packets -/

/-- Only command words decode to ILLEGAL, so what has a BUS packet is well formed (R71, R72). -/
theorem wellFormed_of_encode_bus {i : Instr} {sel : Sel} {d : Word} (h : encode i = .bus sel d) :
    i.wellFormed = true := by
  cases i with
  | illegal v => cases h
  | _ => rfl

theorem illegal_wellFormed_iff (v : Word) : (Instr.illegal v).wellFormed = true ↔ v ≠ 0 ∧ v ≠ 1 := by
  simp [Instr.wellFormed]

/-- A command word decodes to a well-formed instruction that encodes back to it (R67, R72). -/
theorem encode_decodeCmd (v : Word) : (decodeCmd v).wellFormed = true ∧ encode (decodeCmd v) = .cmd v := by
  by_cases h0 : v = 0
  · rw [h0]
    exact ⟨rfl, rfl⟩
  · by_cases h1 : v = 1
    · rw [h1]
      exact ⟨rfl, rfl⟩
    · rw [decodeCmd_of_illegal h0 h1]
      exact ⟨(illegal_wellFormed_iff v).mpr ⟨h0, h1⟩, rfl⟩

/-- The offset's low bits are 0 exactly at a multiple of 4 (R66). -/
theorem selOff_lowBits_eq_zero_iff (sel : Sel) : (selOff sel).extractLsb' 0 2 = 0 ↔ (selOff sel).toNat % 4 = 0 := by
  simpa using lowBits_ofNat_eq_zero_iff (selOff sel).toNat

/-- The rows of the table cover every aligned selector (R71). -/
theorem busTable_covers {sel : Sel} (h : (selOff sel).extractLsb' 0 2 = 0) :
    (busTable.find? (·.hits sel)).isSome = true := by
  revert sel
  decide

theorem selOf_selWrite_selOff (sel : Sel) : selOf (selWrite sel) (selOff sel) = sel := by
  revert sel
  decide

/-! ## The port -/

/-- A word access of the one host inside the window, out of reset, runs what its packet decodes to (R81). -/
theorem hostAccess_eq_exec {a : HostAccess} {s : State} {i : Instr} (hreset : s.inReset = false) (hhost : a.host = 0)
    (hbytes : a.bytes = 4) (hoff : a.off < 64) (hdec : decode (.bus a.selector a.data) = .ok i) :
    hostAccess a s = exec i s := by
  have hbefore := refusalBefore_firstHost (a := a) hreset hhost
  rw [if_neg (not_not.mpr hbytes), if_neg (not_le.mpr hoff)] at hbefore
  simp [hostAccess, hbefore, runPacket, hdec]

/-- Out of reset a command word runs what it decodes to (R106). -/
theorem hostCommand_eq_exec {v : Word} {s : State} {i : Instr} (hreset : s.inReset = false)
    (hdec : decode (.cmd v) = .ok i) : hostCommand v s = exec i s := by
  simp [hostCommand, hreset, runPacket, hdec]

/-- The input that stands for a table word runs the instruction the word decodes to (log 1). -/
theorem takeInput_tableInput {nbits w : Nat} {i : Instr} {s : State} (hreset : s.inReset = false)
    (h : decodeTableWord nbits w = some i) : takeInput (tableInput nbits w) s = exec i s := by
  rw [decodeTableWord] at h
  rw [tableInput]
  cases hpacket : tablePacket nbits w with
  | none => simp [hpacket] at h
  | some p =>
    have hdec : decode p = .ok i := by
      cases hd : decode p <;> simp [hpacket, hd] at h
      rw [h]
    cases p with
    | cmd v => exact hostCommand_eq_exec hreset hdec
    | bus sel d =>
      refine hostAccess_eq_exec hreset rfl rfl (selOff sel).isLt ?_
      simpa [HostAccess.selector, selOf_selWrite_selOff] using hdec

end Sys2Proof.Proofs
end

section
/-! SUPPORT. Proofs of the statements of spec/30_encoding.md about the two formats, and of spec/40_register_access.md
about the access a step runs. -/

namespace Sys2Proof.Proofs

open Sys2Proof Sys2Proof.Machine

/-- Settles O1: the packets are decoded by evaluation, but for the two that carry an operand the decoder tests: an
illegal word (`decodeCmd_of_illegal`) and a reserved slot (`decode_rsvdSlot`). -/
theorem decodeOfEncode : Obligations.DecodeOfEncode := by
  intro i hwf
  cases i with
  | illegal v =>
    obtain ⟨h0, h1⟩ := (illegal_wellFormed_iff v).mp hwf
    exact congrArg Except.ok (decodeCmd_of_illegal h0 h1)
  | rdRsvdHi k => exact decode_rsvdSlot false k 0
  | wrRsvdHi k d => exact decode_rsvdSlot true k d
  | _ => rfl

/-- Settles O2: a selector's instruction encodes back (`encode_of_decode_bus`) and so is well formed, and every command
word does (`encode_decodeCmd`). -/
theorem encodeOfDecode : Obligations.EncodeOfDecode := by
  refine ⟨fun sel d i h => ?_, fun v => ⟨decodeCmd v, rfl, encode_decodeCmd v⟩⟩
  have henc := encode_of_decode_bus h
  exact ⟨wellFormed_of_encode_bus henc, henc⟩

/-- Settles O3: the decoder tests the offset's low bits first, and past that test some row is hit (`busTable_covers`). -/
theorem alignedSelectorsDecode : Obligations.AlignedSelectorsDecode := by
  refine fun sel d => ⟨fun h => if_pos (mt (selOff_lowBits_eq_zero_iff sel).mp h), fun h => ?_⟩
  have hlow := (selOff_lowBits_eq_zero_iff sel).mpr h
  obtain ⟨r, hr⟩ := Option.isSome_iff_exists.mp (busTable_covers hlow)
  exact ⟨r.instr sel d, by simp [decode, decodeBus, hlow, hr]⟩

/-- Settles O5: the decoder evaluates each word written out. -/
theorem specWordsDecode : Obligations.SpecWordsDecode :=
  ⟨rfl, rfl, rfl, rfl, rfl, rfl, rfl, rfl, rfl, rfl⟩

/-- Settles O6: `hostAccess_eq_exec` and `hostCommand_eq_exec` at the state the input leaves. -/
theorem stepRunsDecodedInstr : Obligations.StepRunsDecodedInstr := by
  refine ⟨fun s a rest i hin hreset hhost hbytes hoff hdec => ?_, fun s v rest i hin hreset hdec => ?_⟩ <;>
    rw [step_cons hin]
  · exact hostAccess_eq_exec hreset hhost hbytes hoff hdec
  · exact hostCommand_eq_exec hreset hdec

/-- Settles O7: the table word's input comes first on the schedule (`takeInput_tableInput`). -/
theorem fetchWordRuns : Obligations.FetchWordRuns := by
  intro s nbits w i h
  rw [step_cons rfl]
  exact takeInput_tableInput rfl h

/-- Settles O9: reset is the port's first test, the host's number its second (`hostAccess_refused`). -/
theorem resetAndSecondHostRefused : Obligations.ResetAndSecondHostRefused := by
  refine ⟨fun s a rest hin hreset => ?_, fun s v rest hin hreset => ?_, fun s a rest hin hreset hhost => ?_⟩ <;>
    rw [step_cons hin]
  · exact hostAccess_refused (by simp [refusalBefore, hreset])
  · simp [takeInput, hostCommand, hreset]
  · exact hostAccess_refused (by simp [refusalBefore, hreset, hhost])

/-- Settles O10: each slot's selector decodes to its read, which answers the register (`hostAccess_eq_exec`). -/
theorem windowReadsItsSlots : Obligations.WindowReadsItsSlots := by
  intro s off d hoff halign hreset
  have hread : ∀ {i : Instr}, decode (.bus (selOf false (BitVec.ofNat 6 off)) d) = .ok i →
      hostAccess ⟨0, 4, false, off, d⟩ s = exec i s := fun hdec => hostAccess_eq_exec hreset rfl rfl hoff hdec
  obtain ⟨slot, rfl⟩ : ∃ slot, off = 4 * slot := ⟨off / 4, by omega⟩
  have hslot : slot < 16 := by omega
  interval_cases slot <;> exact (hread rfl).trans rfl

end Sys2Proof.Proofs
end

section
/-! SUPPORT. What an instruction does to BUSY, DONE, IRQ_EN and to everything that is not the block's; which instruction
an input presents; what a step does to the flags. -/

namespace Sys2Proof.Proofs

open Sys2Proof Sys2Proof.Machine

/-! ## Instructions -/

theorem toNat_pos {v : Word} (h : v ≠ 0) : 0 < v.toNat :=
  Nat.pos_of_ne_zero fun h0 => h (BitVec.eq_of_toNat_eq h0)

/-- A RUN issued touches nothing outside the block (R52, R141). -/
theorem cmdRun_platform (s : State) :
    (cmdRun s).mem = s.mem ∧ (cmdRun s).busErrs = s.busErrs ∧ (cmdRun s).inputs = s.inputs ∧
    (cmdRun s).inReset = s.inReset ∧ (cmdRun s).freeCount = s.freeCount := by
  rcases cmdRun_cases s with ⟨_, _, h, -⟩ | ⟨h, -⟩ | ⟨h, -⟩ <;> rw [h] <;> exact ⟨rfl, rfl, rfl, rfl, rfl⟩

/-- No instruction touches anything outside the block (R52, R141). -/
theorem exec_platform {i : Instr} {s t : State} (h : exec i s = .next t) :
    t.mem = s.mem ∧ t.busErrs = s.busErrs ∧ t.inputs = s.inputs ∧ t.inReset = s.inReset ∧
    t.freeCount = s.freeCount := by
  rcases exec_cases h with ⟨_, rfl, -⟩ | ⟨rfl, -⟩ | ⟨_, -, rfl⟩ | ⟨_, -, rfl⟩ | ⟨-, -, rfl⟩ | ⟨-, hidle⟩
  any_goals exact ⟨rfl, rfl, rfl, rfl, rfl⟩
  rcases hidle with ⟨_, rfl | rfl | rfl | rfl⟩ | ⟨_, rfl, -⟩ | ⟨-, rfl⟩
  any_goals exact ⟨rfl, rfl, rfl, rfl, rfl⟩
  exact cmdRun_platform s

@[simp] theorem cmdRun_irqEn (s : State) : (cmdRun s).irqEn = s.irqEn := by
  rcases cmdRun_cases s with ⟨_, _, h, -⟩ | ⟨h, -⟩ | ⟨h, -⟩ <;> rw [h] <;> rfl

/-- A RUN issued in an idle block leaves it idle with DONE set, or starts a run of LEN > 0 samples (R109). -/
theorem cmdRun_flags {s : State} (hb : s.busy = false) :
    ((cmdRun s).busy = s.busy ∧ (cmdRun s).done = true) ∨ (cmdRun s = startRun (clearProgress s) ∧ s.len ≠ 0) := by
  rcases cmdRun_cases s with ⟨_, _, h, -⟩ | ⟨h, -⟩ | ⟨h, hlen, -⟩
  · rw [h, hb]
    exact .inl ⟨rfl, rfl⟩
  · rw [h, hb]
    exact .inl ⟨rfl, rfl⟩
  · exact .inr ⟨h, hlen⟩

/-- What an instruction can do to the flags behind `irq` and to BUSY: keep them or set DONE, write IRQ_EN, clear DONE by
W1C, or start a run (R22, R24, R25, R137). -/
theorem exec_flag_cases {i : Instr} {s t : State} (h : exec i s = .next t) :
    (t.busy = s.busy ∧ t.irqEn = s.irqEn ∧ (t.done = s.done ∨ t.done = true)) ∨
    (∃ d, i = .wrCtrl d ∧ t = { s with irqEn := d.getLsbD 0 }) ∨
    (∃ d, i = .wrStatus d ∧ t = s.clearStatus d) ∨
    (s.busy = false ∧ (i = .run ∨ i = .wrCmd 1) ∧ t = startRun (clearProgress s) ∧ s.len ≠ 0) := by
  rcases exec_cases h with ⟨_, rfl, -⟩ | ⟨rfl, -⟩ | ⟨d, hi, rfl⟩ | ⟨d, hi, rfl⟩ | ⟨-, -, rfl⟩ | ⟨hb, hidle⟩
  · exact .inl ⟨rfl, rfl, .inl rfl⟩
  · exact .inl ⟨rfl, rfl, .inl rfl⟩
  · exact .inr (.inl ⟨d, hi, rfl⟩)
  · exact .inr (.inr (.inl ⟨d, hi, rfl⟩))
  · exact .inl ⟨rfl, rfl, .inl rfl⟩
  · rcases hidle with ⟨_, rfl | rfl | rfl | rfl⟩ | ⟨v, rfl, -⟩ | ⟨hrun, rfl⟩
    any_goals exact .inl ⟨rfl, rfl, .inl rfl⟩
    · exact .inl ⟨hb.symm, rfl, .inr rfl⟩
    · rcases cmdRun_flags hb with ⟨hbusy, hdone⟩ | ⟨hstart, hlen⟩
      · exact .inl ⟨hbusy, cmdRun_irqEn s, .inr hdone⟩
      · exact .inr (.inr (.inr ⟨hb, hrun, hstart, hlen⟩))

/-- An instruction that leaves the block BUSY from idle has started a run (R115). -/
theorem exec_starts {i : Instr} {s t : State} (h : exec i s = .next t) (hidle : s.busy = false) (hb : t.busy = true) :
    t = startRun (clearProgress s) ∧ s.len ≠ 0 ∧ (i = .run ∨ i = .wrCmd 1) := by
  rcases exec_flag_cases h with ⟨hbusy, -⟩ | ⟨_, -, rfl⟩ | ⟨_, -, rfl⟩ | ⟨-, hrun, ht, hlen⟩
  · simp [hbusy, hidle] at hb
  · simp [hidle] at hb
  · simp [hidle] at hb
  · exact ⟨ht, hlen, hrun⟩

/-! ## The instruction an input presents -/

/-- The input is a host access inside the window, or a command word, that decodes to `i` (R81, R106). -/
def Presents : Input → Instr → Prop
  | .access a, i => a.off < 64 ∧ decode (.bus a.selector a.data) = .ok i
  | .command v, i => decodeCmd v = i
  | _, _ => False

/-- Only a host write of that register presents a write's instruction (R65). -/
theorem Presents.access_write {x : Input} {i : Instr} {off : BitVec 6} {d : Word} (h : Presents x i)
    (henc : encode i = .bus (selOf true off) d) :
    ∃ a : HostAccess, x = .access a ∧ a.write = true ∧ a.off = off.toNat ∧ a.data = d := by
  cases x with
  | access a => exact ⟨a, rfl, access_of_decode_write h.1 h.2 henc⟩
  | command v => cases ((congrArg encode h).symm.trans (encode_decodeCmd v).2).symm.trans henc
  | _ => exact h.elim

/-- Only the command word itself presents a command's instruction (R67). -/
theorem Presents.command_of_cmd {x : Input} {i : Instr} {v : Word} (h : Presents x i) (henc : encode i = .cmd v) :
    x = .command v := by
  cases x with
  | access a => cases (encode_of_decode_bus h.2).symm.trans henc
  | command w =>
    obtain rfl := Packet.cmd.inj (((congrArg encode h).symm.trans (encode_decodeCmd w).2).symm.trans henc)
    rfl
  | _ => exact h.elim

/-- What an input presents is well formed (R72). -/
theorem Presents.wellFormed {x : Input} {i : Instr} (h : Presents x i) : i.wellFormed = true := by
  cases x with
  | access a => exact wellFormed_of_encode_bus (encode_of_decode_bus h.2)
  | command v =>
    rw [← show decodeCmd v = i from h]
    exact (encode_decodeCmd v).1
  | _ => exact h.elim

/-! ## Steps -/

/-- An engine step keeps BUSY, DONE and IRQ_EN or completes the run (R116 to R119). -/
theorem engineStep_flag_cases {s t : State} (h : engineStep s = .next t) :
    (t.busy = s.busy ∧ t.done = s.done ∧ t.irqEn = s.irqEn) ∨ (t.busy = false ∧ t.done = true ∧ t.irqEn = s.irqEn) := by
  obtain ⟨-, ⟨-, rfl⟩ | ⟨-, -, ⟨-, rfl⟩ | ⟨-, ⟨-, rfl⟩ | ⟨-, rfl⟩⟩⟩⟩ := engineStep_cases h
  · exact .inr ⟨rfl, rfl, rfl⟩
  · exact .inr ⟨rfl, rfl, rfl⟩
  · rw [advance_eq]
    exact .inr ⟨rfl, rfl, rfl⟩
  · rw [advance_eq]
    exact .inl ⟨rfl, rfl, rfl⟩

/-- What a step can do to the flags: keep BUSY, DONE and IRQ_EN, complete a run, reset, or be an instruction's. -/
theorem step_flag_cases {s t : State} (h : step s = .next t) :
    (t.busy = s.busy ∧ t.done = s.done ∧ t.irqEn = s.irqEn) ∨
    (t.busy = false ∧ t.done = true ∧ t.irqEn = s.irqEn) ∨
    (t.busy = false ∧ t.inReset = true ∧ t.irq = false ∧ ∃ f, s.inputs.head? = some (.assertReset f)) ∨
    (∃ r x i, s.inputs = x :: r ∧ Presents x i ∧ s.inReset = false ∧ exec i { s with inputs := r } = .next t) := by
  obtain ⟨r, -, ⟨-, heng, -⟩ | ⟨-, rfl, -⟩ | ⟨a, i, hin, hreset, hoff, hdec, hex⟩ | ⟨v, hin, hreset, hex⟩ |
    ⟨f, hin, rfl⟩ | ⟨-, rfl⟩ | ⟨_, _, -, hst⟩ | ⟨_, -, hld⟩ | ⟨_, -, rfl⟩⟩ := step_cases h
  · exact (engineStep_flag_cases heng).imp_right .inl
  · exact .inl ⟨rfl, rfl, rfl⟩
  · exact .inr (.inr (.inr ⟨r, _, i, hin, ⟨hoff, hdec⟩, hreset, hex⟩))
  · exact .inr (.inr (.inr ⟨r, _, _, hin, rfl, hreset, hex⟩))
  · exact .inr (.inr (.inl ⟨rfl, rfl, rfl, f, congrArg List.head? hin⟩))
  · exact .inl ⟨rfl, rfl, rfl⟩
  · rw [hostStore_eq hst]
    exact .inl ⟨rfl, rfl, rfl⟩
  · rw [hostLoad_eq hld]
    exact .inl ⟨rfl, rfl, rfl⟩
  · exact .inl ⟨rfl, rfl, rfl⟩

/-- A step of a run is the engine's, ends in reset, or leaves every register of the run alone (R38, R116). -/
theorem step_busy_cases {s t : State} (hb : s.busy = true) (h : step s = .next t) :
    (∃ r, engineStep { s with inputs := r } = .next t) ∨ t.busy = false ∨
    t = { s with
      irqEn := t.irqEn, done := t.done, ovr := t.ovr, mem := t.mem, busErrs := t.busErrs, inReset := t.inReset,
      inputs := t.inputs, readData := t.readData, racedIn := t.racedIn, racedOut := t.racedOut,
      freeCount := t.freeCount } := by
  obtain ⟨r, -, ⟨-, heng, -⟩ | ⟨hidle, -⟩ | ⟨_, _, -, -, -, -, hex⟩ | ⟨_, -, -, hex⟩ | ⟨f, -, rfl⟩ | ⟨-, rfl⟩ |
    ⟨_, _, -, hst⟩ | ⟨_, -, hld⟩ | ⟨_, -, rfl⟩⟩ := step_cases h
  · exact .inl ⟨r, heng⟩
  · simp [hidle] at hb
  · rw [exec_busy_frame hex hb]
    exact .inr (.inr rfl)
  · rw [exec_busy_frame hex hb]
    exact .inr (.inr rfl)
  · exact .inr (.inl rfl)
  · exact .inr (.inr rfl)
  · rw [hostStore_eq hst]
    exact .inr (.inr rfl)
  · rw [hostLoad_eq hld]
    exact .inr (.inr rfl)
  · exact .inr (.inr rfl)

/-- An engine step that leaves the run going has done one sample that is not the last (R116). -/
theorem engineStep_going {s t : State} (h : engineStep s = .next t) (hb : t.busy = true) :
    s.count + 1 ≠ s.len ∧ t = advance s (s.inputWord s.index) := by
  obtain ⟨-, ⟨-, rfl⟩ | ⟨-, -, ⟨-, rfl⟩ | ⟨-, ⟨-, rfl⟩ | ⟨hlast, ht⟩⟩⟩⟩ := engineStep_cases h
  · cases hb
  · cases hb
  · cases hb
  · exact ⟨hlast, ht⟩

/-! ## What clears DONE, and what changes IRQ_EN -/

/-- A step that clears DONE (R172). -/
theorem step_clears_done {s t : State} (h : step s = .next t) (h1 : s.done = true) (h0 : t.done = false) :
    t.busy = true ∨ (∃ f, s.inputs.head? = some (.assertReset f)) ∨
    ∃ a : HostAccess, s.inputs.head? = some (.access a) ∧ a.write = true ∧ a.off = 0x08 ∧ a.data.getLsbD 1 = true := by
  rcases step_flag_cases h with ⟨-, hdone, -⟩ | ⟨-, hdone, -⟩ | ⟨-, -, -, hreset⟩ | ⟨r, x, i, hin, hx, -, hex⟩
  · simp [hdone, h1] at h0
  · simp [hdone] at h0
  · exact .inr (.inl hreset)
  · rcases exec_flag_cases hex with ⟨-, -, hdone | hdone⟩ | ⟨_, -, rfl⟩ | ⟨d, rfl, rfl⟩ | ⟨-, -, rfl, -⟩
    · simp [hdone, h1] at h0
    · simp [hdone] at h0
    · simp [h1] at h0
    · obtain ⟨a, rfl, hw, hoff, rfl⟩ := hx.access_write (off := 0x08) rfl
      rw [hin]
      exact .inr (.inr ⟨a, rfl, hw, hoff, by simpa [h1] using h0⟩)
    · exact .inl rfl

/-- A step that changes IRQ_EN is reset or a write of CTRL, which leaves DONE alone (R95). -/
theorem step_changes_irqEn {s t : State} (h : step s = .next t) (hne : t.irqEn ≠ s.irqEn) :
    (t.irq = false ∧ ∃ f, s.inputs.head? = some (.assertReset f)) ∨
    ∃ a : HostAccess, s.inputs.head? = some (.access a) ∧ a.write = true ∧ a.off = 0x04 ∧
      a.data.getLsbD 0 = t.irqEn := by
  rcases step_flag_cases h with ⟨-, -, hirq⟩ | ⟨-, -, hirq⟩ | ⟨-, -, hirq, hreset⟩ | ⟨r, x, i, hin, hx, -, hex⟩
  · exact absurd hirq hne
  · exact absurd hirq hne
  · exact .inl ⟨hirq, hreset⟩
  · rcases exec_flag_cases hex with ⟨-, hirq, -⟩ | ⟨d, rfl, rfl⟩ | ⟨_, -, rfl⟩ | ⟨-, -, rfl, -⟩
    · exact absurd hirq hne
    · obtain ⟨a, rfl, hw, hoff, rfl⟩ := hx.access_write (off := 0x04) rfl
      rw [hin]
      exact .inr ⟨a, rfl, hw, hoff, rfl⟩
    · exact absurd rfl hne
    · exact absurd rfl hne

end Sys2Proof.Proofs
end

section
/-! SUPPORT. Proofs of the statements of spec/10_state.md about BUSY, DONE and COUNT (R24, R25, R40), of
spec/60_exceptions.md about `irq` (R137) and of spec/41_commands.md about RUN's frame (R109). -/

namespace Sys2Proof.Proofs

open Sys2Proof Sys2Proof.Machine

/-- Settles O21: while BUSY the word is frozen (`exec_eq_setOvr`); idle, RUN has the three ends of `cmdRun_cases`. -/
theorem runCommandFrame : Obligations.RunCommandFrame := by
  refine fun s => ⟨fun hb => exec_eq_setOvr hb rfl, fun hb => ⟨cmdRun s, exec_run_idle hb, ?_⟩⟩
  rcases cmdRun_cases s with ⟨_, _, h, -⟩ | ⟨h, -⟩ | ⟨h, hlen, -⟩ <;> rw [h]
  · exact ⟨rfl, nofun⟩
  · exact ⟨rfl, nofun⟩
  · exact ⟨rfl, fun _ => ⟨rfl, rfl, hlen⟩⟩

/-- Settles O28: every instruction answers (`exec_next`) and leaves what is not the block's (`exec_platform`). -/
theorem instructionsTouchNoMemory : Obligations.InstructionsTouchNoMemory := by
  intro i s
  obtain ⟨t, ht⟩ := exec_next i s
  exact ⟨t, ht, exec_platform ht⟩

/-- Settles O31: of the kinds of step (`step_flag_cases`) only an instruction raises BUSY, and it is a RUN
(`exec_starts`), which only its command word or a write of 1 to CMD presents. -/
theorem busyWriters : Obligations.BusyWriters := by
  intro s t h
  rcases step_flag_cases h with ⟨hbusy, -⟩ | ⟨hbusy, hdone, -⟩ | ⟨hbusy, hreset, -⟩ | ⟨r, x, i, hin, hx, -, hex⟩
  · exact ⟨fun h0 h1 => by simp [hbusy, h0] at h1, fun h1 h0 => by simp [hbusy, h1] at h0⟩
  · exact ⟨fun _ h1 => by simp [hbusy] at h1, fun _ _ => .inl hdone⟩
  · exact ⟨fun _ h1 => by simp [hbusy] at h1, fun _ _ => .inr hreset⟩
  · refine ⟨fun h0 h1 => ?_, fun h1 h0 => ?_⟩
    · obtain ⟨rfl, hlen, hi⟩ := exec_starts hex h0 h1
      rw [hin]
      refine ⟨toNat_pos hlen, rfl, rfl, ?_⟩
      rcases hi with rfl | rfl
      · exact .inl (congrArg some (hx.command_of_cmd rfl))
      · obtain ⟨a, rfl, ha⟩ := hx.access_write (off := 0x0C) rfl
        exact .inr ⟨a, rfl, ha⟩
    · rw [exec_busy_frame hex h1] at h0
      exact absurd h1 (by simpa using h0)

/-- Settles O32, which is `step_clears_done`. -/
theorem doneClearers : Obligations.DoneClearers := fun _ _ => step_clears_done

/-- Settles O33: `irq` is IRQ_EN and DONE, so an edge changes one of the two: IRQ_EN (`step_changes_irqEn`), or DONE,
which falls as in `step_clears_done`. -/
theorem irqEdges : Obligations.IrqEdges := by
  refine fun s t h => ⟨fun h0 h1 => ?_, fun h1 h0 => ?_⟩
  · obtain ⟨hen, hdone⟩ : t.irqEn = true ∧ t.done = true := by simpa [State.irq] using h1
    refine ⟨hen, hdone, or_iff_not_imp_left.mpr fun hsdone => ?_⟩
    have hne : t.irqEn ≠ s.irqEn := by
      intro heq
      simp [State.irq, ← heq, hen, hsdone] at h0
    rcases step_changes_irqEn h hne with ⟨hlow, -⟩ | ⟨a, hhead, hw, hoff, hbit⟩
    · simp [hlow] at h1
    · exact ⟨a, hhead, hw, hoff, hbit.trans hen⟩
  · obtain ⟨hen, hdone⟩ : s.irqEn = true ∧ s.done = true := by simpa [State.irq] using h1
    by_cases heq : t.irqEn = s.irqEn
    · have htdone : t.done = false := by simpa [State.irq, heq, hen] using h0
      rcases step_clears_done h hdone htdone with hb | hreset | ⟨a, hhead, hw, hclear⟩
      · exact .inl hb
      · exact .inr (.inl hreset)
      · exact .inr (.inr ⟨a, hhead, hw, .inr hclear⟩)
    · rcases step_changes_irqEn h heq with ⟨-, hreset⟩ | ⟨a, hhead, hw, hoff, hbit⟩
      · exact .inr (.inl hreset)
      · exact .inr (.inr ⟨a, hhead, hw, .inl ⟨hoff, hbit.trans (by simpa [hen] using heq)⟩⟩)

/-- Settles O34: only an engine step moves COUNT (`step_busy_cases`), one that keeps the run going is `advance`
(`engineStep_going`), and below LEN the sum does not wrap (`count_succ`). -/
theorem countAdvancesByOne : Obligations.CountAdvancesByOne := by
  intro s t hinv h hb hbt
  rcases step_busy_cases hb h with ⟨r, heng⟩ | hidle | ht
  · obtain ⟨hlast, rfl⟩ := engineStep_going heng hbt
    obtain ⟨-, hlt, -⟩ := runInv_of_inv hinv hb
    obtain ⟨hsucc, hend⟩ := count_succ hlt
    rw [advance_eq]
    exact .inr ⟨hsucc, hsucc.trans_lt (lt_of_le_of_ne hlt (mt hend.mpr hlast))⟩
  · simp [hidle] at hbt
  · rw [ht]
    exact .inl rfl

end Sys2Proof.Proofs
end

section
/-! SUPPORT. The invariant under each kind of step (R39): the end of a command, an instruction, the engine, a write of
data memory, reset; and the run that ends by the engine alone (R169). -/

namespace Sys2Proof.Proofs

open Sys2Proof Sys2Proof.Machine

/-! ## Codes and addresses -/

/-- Codes 3 to 6 agree with any aligned address (R138). -/
theorem outcomeInv_of_aligned {s : State} {c : BitVec 4} (hcode : s.errCode = c) (hc : c = 3 ∨ c = 4 ∨ c = 5 ∨ c = 6)
    (halign : s.errInfo.toNat % 4 = 0) : s.OutcomeInv := by
  rw [State.OutcomeInv, hcode]
  rcases hc with rfl | rfl | rfl | rfl <;> exact ⟨by decide, nofun, nofun, nofun, fun _ => halign⟩

/-- Code 2 agrees with any misaligned address (R138). -/
theorem outcomeInv_of_misaligned {s : State} (hcode : s.errCode = 2) (hmis : s.errInfo.toNat % 4 ≠ 0) :
    s.OutcomeInv := by
  rw [State.OutcomeInv, hcode]
  exact ⟨by decide, nofun, nofun, fun _ => hmis, fun h => absurd h (by decide)⟩

/-- Code 1 agrees with any illegal word (R138). -/
theorem outcomeInv_of_illegal {s : State} (hcode : s.errCode = 1) (hword : s.errInfo ≠ 0 ∧ s.errInfo ≠ 1) :
    s.OutcomeInv := by
  rw [State.OutcomeInv, hcode]
  exact ⟨by decide, nofun, fun _ => hword, nofun, fun h => absurd h (by decide)⟩

/-- Code 0 agrees with ERR_INFO = 0 (R138). -/
theorem outcomeInv_of_success {s : State} (hcode : s.errCode = 0) (hinfo : s.errInfo = 0) : s.OutcomeInv := by
  rw [State.OutcomeInv, hcode]
  exact ⟨by decide, fun _ => hinfo, nofun, nofun, fun h => absurd h (by decide)⟩

/-! ## The invariant of an idle block and of a run -/

theorem resetInv_of_released {s : State} (h : s.inReset = false) : s.ResetInv := by
  intro hr
  rw [h] at hr
  cases hr

theorem inv_of_idle {s : State} (hb : s.busy = false) (hmem : s.mem.wf) (hidle : s.IdleInv) (hout : s.OutcomeInv)
    (hprev : s.count = 0 → s.prev = 0) (hreset : s.ResetInv) : s.Inv := by
  obtain ⟨hrunMem, -⟩ := id hidle
  refine ⟨hmem, ?_, fun h => ?_, fun _ => hidle, hout, hprev, hreset⟩
  · rw [hrunMem]
    exact ⟨List.Pairwise.nil, nofun⟩
  · rw [hb] at h
    cases h

theorem inv_of_running {s : State} (hb : s.busy = true) (hmem : s.mem.wf) (hrunMem : Memory.wf s.runMem)
    (hrun : s.RunInv) (hout : s.OutcomeInv) (hprev : s.count = 0 → s.prev = 0) : s.Inv := by
  obtain ⟨-, -, -, -, hreset, -⟩ := id hrun
  refine ⟨hmem, hrunMem, fun _ => hrun, fun h => ?_, hout, hprev, resetInv_of_released hreset⟩
  rw [hb] at h
  cases h

/-! ## Instructions -/

/-- RUN in an idle block keeps the invariant, whichever end it has (R109 to R115). -/
theorem cmdRun_inv {s : State} (hmem : s.mem.wf) (hidle : s.IdleInv) (hreset : s.inReset = false) : (cmdRun s).Inv := by
  have hended : ∀ {c v}, (complete c v (clearProgress s)).OutcomeInv → (complete c v (clearProgress s)).Inv :=
    fun hout => inv_of_idle rfl hmem hidle hout (fun _ => rfl) (resetInv_of_released hreset)
  rcases cmdRun_cases s with ⟨c, v, h, hcode⟩ | ⟨h, -⟩ | ⟨h, hlen, hchk⟩ <;> rw [h]
  · rcases hcode with ⟨rfl, hmis, -⟩ | ⟨hc, halign, -⟩
    · exact hended (outcomeInv_of_misaligned rfl hmis)
    · exact hended (outcomeInv_of_aligned rfl (by tauto) halign)
  · exact hended (outcomeInv_of_success rfl rfl)
  · exact inv_of_running rfl hmem hmem ⟨rfl, toNat_pos hlen, rfl, hchk, hreset, nofun, nofun⟩
      (outcomeInv_of_success rfl rfl) fun _ => rfl

/-- Every well-formed instruction out of reset keeps the invariant. -/
theorem exec_inv {i : Instr} {s t : State} (h : exec i s = .next t) (hinv : s.Inv) (hwf : i.wellFormed = true)
    (hreset : s.inReset = false) : t.Inv := by
  obtain ⟨hmem, hrunMem, hrun, hidle, hout, hprev, -⟩ := id hinv
  rcases exec_cases h with ⟨_, rfl, -⟩ | ⟨rfl, -⟩ | ⟨_, -, rfl⟩ | ⟨d, -, rfl⟩ | ⟨-, -, rfl⟩ | ⟨hb, hact⟩
  · exact hinv
  · exact hinv
  · exact ⟨hmem, hrunMem, hrun, hidle, hout, hprev, resetInv_of_released hreset⟩
  · refine ⟨hmem, hrunMem, fun hb => ?_, hidle, hout, hprev, resetInv_of_released hreset⟩
    obtain ⟨hdone, hrest⟩ := hrun hb
    exact ⟨by simp [hdone], hrest⟩
  · exact ⟨hmem, hrunMem, hrun, hidle, hout, hprev, resetInv_of_released hreset⟩
  · rcases hact with ⟨_, hoperand⟩ | ⟨v, rfl, hv⟩ | ⟨-, rfl⟩
    · rcases hoperand with rfl | rfl | rfl | rfl <;>
        exact inv_of_idle hb hmem (hidle hb) hout hprev (resetInv_of_released hreset)
    · have hword : v ≠ 0 ∧ v ≠ 1 := by
        rcases hv with rfl | ⟨-, hv⟩
        · exact (illegal_wellFormed_iff v).mp hwf
        · exact hv
      exact inv_of_idle rfl hmem (hidle hb) (outcomeInv_of_illegal rfl hword) hprev (resetInv_of_released hreset)
    · exact cmdRun_inv hmem (hidle hb) hreset

/-! ## The engine -/

/-- Every engine step of a run keeps the invariant (R116 to R119). -/
theorem engineStep_inv {s t : State} (h : engineStep s = .next t) (hinv : s.Inv) (hb : s.busy = true) : t.Inv := by
  obtain ⟨hmem, hrunMem, hrun, -, hout, hprev, -⟩ := hinv
  replace hrun := hrun hb
  obtain ⟨hreadAlign, -⟩ := readAddr_of_runInv hrun
  obtain ⟨hwriteAlign, -⟩ := writeAddr_of_runInv hrun
  obtain ⟨hdone, hlt, hcode, hchk, hreset, hraced⟩ := hrun
  obtain ⟨-, -, hsrcEnd, hdstEnd, -⟩ := id hchk
  obtain ⟨hsucc, hend⟩ := count_succ hlt
  have hreadInfo : (addrWord s.readAddr).toNat % 4 = 0 := (addrWord_toNat hsrcEnd hlt).symm ▸ hreadAlign
  have hwriteInfo : (addrWord s.writeAddr).toNat % 4 = 0 := (addrWord_toNat hdstEnd hlt).symm ▸ hwriteAlign
  have hmoved : s.count + 1 ≠ 0 := fun h => Nat.succ_ne_zero _ (hsucc.symm.trans (congrArg BitVec.toNat h))
  have hended : ∀ {c v u}, u.inReset = s.inReset → u.mem.wf → (endRun c v u).OutcomeInv → (u.count = 0 → u.prev = 0) →
      (endRun c v u).Inv := fun hr hm hout hprev =>
    inv_of_idle rfl hm ⟨rfl, rfl, rfl⟩ hout hprev (resetInv_of_released (hr.trans hreset))
  obtain ⟨-, ⟨-, rfl⟩ | ⟨-, hspace, ⟨-, rfl⟩ | ⟨-, ⟨-, rfl⟩ | ⟨hlast, rfl⟩⟩⟩⟩ := engineStep_cases h
  · exact hended rfl hmem (outcomeInv_of_aligned (c := 5) rfl (by decide) hreadInfo) hprev
  · exact hended rfl (Memory.wf_setWord _ hmem hspace)
      (outcomeInv_of_aligned (c := 6) rfl (by decide) hwriteInfo) hprev
  · rw [advance_eq]
    exact hended rfl (Memory.wf_setWord _ hmem hspace) (outcomeInv_of_success rfl rfl) fun h => absurd h hmoved
  · have hnext : (s.count + 1).toNat < s.len.toNat := hsucc.trans_lt (lt_of_le_of_ne hlt (mt hend.mpr hlast))
    rw [advance_eq]
    exact inv_of_running hb (Memory.wf_setWord _ hmem hspace) hrunMem ⟨hdone, hnext, hcode, hchk, hreset, hraced⟩ hout
      fun h => absurd h hmoved

/-! ## Data memory written by the host or another master -/

/-- Any value in an output word the run has written keeps the invariant (R58). -/
theorem clobberDone_inv {s : State} (hinv : s.Inv) (hb : s.busy = true) (j : Nat) : (s.clobberDone j).Inv := by
  obtain ⟨hmem, hrunMem, hrun, -, hout, hprev, -⟩ := id hinv
  obtain ⟨-, hlt, -, ⟨-, halign, -, hspace, -⟩, -⟩ := id (hrun hb)
  simp only [State.clobberDone]
  split
  next hj =>
    have hend := (sampleAddr_aligned_inSpace halign hspace (lt_trans hj hlt)).2
    exact inv_of_running hb (Memory.wf_setWord _ hmem hend) hrunMem (hrun hb) hout hprev
  next => exact hinv

theorem clobberDone_busy (s : State) (j : Nat) : (s.clobberDone j).busy = s.busy := by
  rw [clobberDone_eq]

theorem forall_mem_addIndex {k n : Nat} {l : List Nat} (hk : k < n) (hl : ∀ j ∈ l, j < n) :
    ∀ j ∈ addIndex k l, j < n := by
  simp only [addIndex]
  split
  · exact hl
  · exact List.forall_mem_cons.mpr ⟨hk, hl⟩

/-- A byte of a region belongs to one of its samples. -/
theorem sampleOf_lt {base len : Word} {a : Nat} (h : inRegion base len a = true) : sampleOf base a < len.toNat := by
  rw [inRegion_iff] at h
  simp only [sampleOf]
  omega

/-- A byte written while no run is in progress lands in memory, and nothing else changes (R47). -/
theorem storeByte_idle {s : State} (hb : s.busy = false) (a : Nat) (b : Byte) :
    storeByte a b s = { s with mem := s.mem.set a b } := by
  simp [storeByte, hb]

/-- A byte written inside the address space keeps the invariant, racing or not (R47, R58). -/
theorem storeByte_inv {s : State} {a : Nat} (b : Byte) (hinv : s.Inv) (ha : a < addrLimit) : (storeByte a b s).Inv := by
  obtain ⟨hmem, hrunMem, hrun, hidle, hout, hprev, hreset⟩ := hinv
  have hset : (s.mem.set a b).wf := Memory.wf_set b hmem ha
  have hplain : State.Inv { s with mem := s.mem.set a b } := ⟨hset, hrunMem, hrun, hidle, hout, hprev, hreset⟩
  rcases Bool.eq_false_or_eq_true s.busy with hb | hb
  · obtain ⟨hdone, hlt, hcode, hchk, hnoreset, hracedIn, hracedOut⟩ := hrun hb
    rcases Bool.eq_false_or_eq_true (inRegion s.src s.len a) with hsrc | hsrc
    · have hnewIn := forall_mem_addIndex (sampleOf_lt hsrc) hracedIn
      have hraced : State.Inv { s with mem := s.mem.set a b, racedIn := addIndex (sampleOf s.src a) s.racedIn } :=
        inv_of_running hb hset hrunMem ⟨hdone, hlt, hcode, hchk, hnoreset, hnewIn, hracedOut⟩ hout hprev
      rw [storeByte_src hb hsrc]
      exact clobberDone_inv (clobberDone_inv hraced hb _) (by rw [clobberDone_busy]; exact hb) _
    · rcases Bool.eq_false_or_eq_true (inRegion s.dst s.len a) with hdst | hdst
      · have hnewOut := forall_mem_addIndex (sampleOf_lt hdst) hracedOut
        obtain ⟨-, halign, -, hspace, -⟩ := id hchk
        have hend := (sampleAddr_aligned_inSpace halign hspace (sampleOf_lt hdst)).2
        rw [storeByte_dst hb hsrc hdst]
        exact inv_of_running hb (Memory.wf_setWord _ hmem hend) hrunMem
          ⟨hdone, hlt, hcode, hchk, hnoreset, hracedIn, hnewOut⟩ hout hprev
      · rw [storeByte_plain hsrc hdst]
        exact hplain
  · rw [storeByte_idle hb]
    exact hplain

theorem storeBytes_inv (bytes : List Byte) {s : State} {a : Nat} (hinv : s.Inv) (ha : a + bytes.length ≤ addrLimit) :
    (storeBytes a bytes s).Inv := by
  induction bytes generalizing a s with
  | nil => exact hinv
  | cons b bytes ih =>
    rw [List.length_cons] at ha
    exact ih (storeByte_inv b hinv (by omega)) (by omega)

/-- A write of data memory that answers keeps the invariant, racing or not (R47, R58). -/
theorem hostStore_inv {s t : State} {a : Nat} {bytes : List Byte} (h : hostStore a bytes s = .next t) (hinv : s.Inv) :
    t.Inv := by
  have ha : a + bytes.length ≤ addrLimit := by
    by_contra hlong
    simp [hostStore, not_le.mp hlong] at h
  rw [hostStore_eq_storeBytes h]
  exact storeBytes_inv bytes hinv ha

/-! ## Reset -/

/-- Asserting reset puts every register at its reset value, BUSY or not; the model's own counter and memory apart (R44,
R157). -/
theorem assertReset_eq (f : Bool) (s : State) :
    assertReset f s = { State.reset with
      mem := (assertReset f s).mem, busErrs := s.busErrs, inReset := true, inputs := s.inputs, readData := s.readData,
      freeCount := (assertReset f s).freeCount } := by
  simp only [assertReset]
  split <;> rfl

/-- With a write in flight during a run, reset leaves any value in the word at DST + 4·COUNT, else memory as it was
(R159). -/
theorem assertReset_mem (f : Bool) (s : State) :
    (assertReset f s).mem =
      if f = true ∧ s.writeInFlight = true then
        s.mem.setWord s.writeAddr (Config.freeWord .resetWrite s.freeCount s.index)
      else s.mem := by
  simp only [assertReset, Bool.and_eq_true]
  split <;> rfl

/-- The reset state over any memory meets the invariant but for the level of `rst_n`, which is free. -/
theorem reset_inv {m : Memory} (hmem : m.wf) (errs : List ErrRegion) (level : Bool) (inputs : List Input)
    (readData : Option Word) (n : Nat) :
    State.Inv { State.reset with
      mem := m, busErrs := errs, inReset := level, inputs := inputs, readData := readData, freeCount := n } :=
  inv_of_idle rfl hmem ⟨rfl, rfl, rfl⟩ (outcomeInv_of_success rfl rfl) (fun _ => rfl)
    fun _ => ⟨rfl, rfl, rfl, rfl, rfl, rfl, rfl, rfl, rfl, rfl, rfl, rfl⟩

/-- Asserting reset keeps the invariant, with a write in flight or without (R157, R159). -/
theorem assertReset_inv (f : Bool) {s : State} (hinv : s.Inv) : (assertReset f s).Inv := by
  have hmem : (assertReset f s).mem.wf := by
    rw [assertReset_mem]
    split
    next h =>
      obtain ⟨hb, -⟩ := Bool.and_eq_true_iff.mp h.2
      exact Memory.wf_setWord _ hinv.1 (writeAddr_of_runInv (runInv_of_inv hinv hb)).2
    next => exact hinv.1
  rw [assertReset_eq]
  exact reset_inv hmem _ _ _ _ _

/-- While reset is asserted the invariant leaves the registers nothing but their reset values (R44, R157). -/
theorem eq_reset_of_inReset {s : State} (hinv : s.Inv) (hreset : s.inReset = true) :
    s = { State.reset with
      mem := s.mem, busErrs := s.busErrs, inReset := true, inputs := s.inputs, readData := s.readData,
      freeCount := s.freeCount } := by
  obtain ⟨-, -, -, hidle, -, -, hregs⟩ := hinv
  obtain ⟨hirq, hb, hdone, hovr, hcode, hcoef, hsrc, hdst, hlen, hcount, hprev, hinfo⟩ := hregs hreset
  obtain ⟨hrunMem, hracedIn, hracedOut⟩ := hidle hb
  cases s
  simp_all [State.reset]

/-! ## Every step -/

/-- Every step that answers keeps the invariant, whatever the schedule holds (R39). -/
theorem step_inv {s t : State} (h : step s = .next t) (hinv : s.Inv) : t.Inv := by
  have hsched : ∀ r, State.Inv { s with inputs := r } := fun _ => hinv
  obtain ⟨r, -, ⟨hb, heng, -⟩ | ⟨-, rfl, -⟩ | ⟨a, i, -, hreset, -, hdec, hex⟩ | ⟨v, -, hreset, hex⟩ | ⟨f, -, rfl⟩ |
    ⟨-, rfl⟩ | ⟨_, _, -, hst⟩ | ⟨_, -, hld⟩ | ⟨_, -, rfl⟩⟩ := step_cases h
  · exact engineStep_inv heng (hsched r) hb
  · exact hinv
  · exact exec_inv hex (hsched r) (wellFormed_of_encode_bus (encode_of_decode_bus hdec)) hreset
  · exact exec_inv hex (hsched r) (encode_decodeCmd v).1 hreset
  · exact assertReset_inv f (hsched r)
  · obtain ⟨hmem, hrunMem, hrun, hidle, hout, hprev, -⟩ := hinv
    refine ⟨hmem, hrunMem, fun hb => ?_, hidle, hout, hprev, resetInv_of_released rfl⟩
    obtain ⟨hdone, hlt, hcode, hchk, -, hraced⟩ := hrun hb
    exact ⟨hdone, hlt, hcode, hchk, rfl, hraced⟩
  · exact hostStore_inv hst (hsched r)
  · rw [hostLoad_eq hld]
    exact hinv
  · exact hinv

/-! ## A run by the engine alone -/

/-- With nothing scheduled, a step of a run is an engine step, which leaves nothing scheduled; it ends the run with code
5 or 6, ends it at the last sample with code 0, or does one sample of more (R116 to R119). -/
theorem step_of_run_alone {s : State} (hinv : s.Inv) (hb : s.busy = true) (halone : s.inputs = []) :
    ∃ t, step s = .next t ∧
      ((t.busy = false ∧ t.done = true ∧ (t.errCode = 5 ∨ t.errCode = 6)) ∨
       (s.count.toNat + 1 = s.len.toNat ∧ t.busy = false ∧ t.done = true ∧ t.errCode = 0 ∧ t.count = t.len) ∨
       (s.count.toNat + 1 < s.len.toNat ∧ t.busy = true ∧ t.inputs = [] ∧ t.len = s.len ∧
         t.count.toNat = s.count.toNat + 1)) := by
  obtain ⟨-, hlt, -⟩ := runInv_of_inv hinv hb
  obtain ⟨hsucc, hend⟩ := count_succ hlt
  obtain ⟨t, ht⟩ := engineTurn_next hinv
  refine ⟨t, (step_nil halone).trans ht, ?_⟩
  rw [engineTurn_busy hb] at ht
  obtain ⟨-, ⟨-, rfl⟩ | ⟨-, -, ⟨-, rfl⟩ | ⟨-, ⟨hlast, rfl⟩ | ⟨hlast, rfl⟩⟩⟩⟩ := engineStep_cases ht
  · exact .inl ⟨rfl, rfl, .inl rfl⟩
  · exact .inl ⟨rfl, rfl, .inr rfl⟩
  · rw [advance_eq]
    exact .inr (.inl ⟨hend.mp hlast, rfl, rfl, rfl, hlast⟩)
  · rw [advance_eq]
    exact .inr (.inr ⟨lt_of_le_of_ne hlt (mt hend.mpr hlast), hb, halone, rfl, hsucc⟩)

/-- By induction on the samples left, a run alone ends after no more engine steps than that (R169). -/
theorem run_alone_ends (n : Nat) {s : State} (hinv : s.Inv) (hb : s.busy = true) (halone : s.inputs = [])
    (hn : s.len.toNat - s.count.toNat = n) :
    ∃ (k : Nat) (t : State), 0 < k ∧ k ≤ n ∧ runSteps k s = .next t ∧ t.busy = false ∧ t.done = true ∧
      ((t.errCode = 0 ∧ k = n ∧ t.count = t.len) ∨ t.errCode = 5 ∨ t.errCode = 6) := by
  induction n generalizing s with
  | zero =>
    obtain ⟨-, hlt, -⟩ := runInv_of_inv hinv hb
    omega
  | succ n ih =>
    obtain ⟨t, hstep, ⟨hidle, hdone, hcode⟩ | ⟨hlast, hidle, hdone, hcode, hcount⟩ |
      ⟨hmore, hbt, hint, hlen, hcount⟩⟩ := step_of_run_alone hinv hb halone
    · refine ⟨1, t, Nat.one_pos, by omega, ?_, hidle, hdone, .inr hcode⟩
      exact runSteps_succ_iff_first.mpr ⟨t, hstep, rfl⟩
    · refine ⟨1, t, Nat.one_pos, by omega, ?_, hidle, hdone, .inl ⟨hcode, by omega, hcount⟩⟩
      exact runSteps_succ_iff_first.mpr ⟨t, hstep, rfl⟩
    · obtain ⟨k, u, -, hk, hrun, hidle, hdone, hout⟩ := ih (step_inv hstep hinv) hbt hint (by rw [hlen, hcount]; omega)
      refine ⟨k + 1, u, Nat.succ_pos k, by omega, runSteps_succ_iff_first.mpr ⟨t, hstep, hrun⟩, hidle, hdone, ?_⟩
      exact hout.imp_left fun ⟨hcode, hk, hcount⟩ => ⟨hcode, by rw [hk], hcount⟩

end Sys2Proof.Proofs
end

section
/-! SUPPORT. Proofs of the statements about the invariant (R39), reset (R44, R157 to R159) and the end of every run
(R169). -/

namespace Sys2Proof.Proofs

open Sys2Proof Sys2Proof.Machine

/-- Settles O55: one case per kind of step (`step_inv`). -/
theorem stepKeepsInvariant : Obligations.StepKeepsInvariant := fun _ _ hinv h => step_inv h hinv

/-- Settles O56, by induction on the samples left (`run_alone_ends`). -/
theorem runTerminates : Obligations.RunTerminates := fun _ hinv hb halone => run_alone_ends _ hinv hb halone rfl

/-- Settles O54: `reset_inv` over the empty memory. -/
theorem resetMeetsInvariant : Obligations.ResetMeetsInvariant :=
  reset_inv ⟨List.Pairwise.nil, nofun⟩ [] false [] none 0

/-- Settles O51: the fields of `State.reset`, written out. -/
theorem resetStateRegisters : Obligations.ResetStateRegisters :=
  ⟨rfl, rfl, rfl, rfl, rfl, rfl, rfl, rfl, rfl, rfl, rfl, rfl, rfl, rfl, rfl⟩

/-- Settles O52: asserting is `assertReset_eq` with the memory of `assertReset_mem`; releasing changes the level, in a
state whose registers the invariant pins (`eq_reset_of_inReset`). -/
theorem resetAssertAndRelease : Obligations.ResetAssertAndRelease := by
  refine ⟨fun s f rest hin => ⟨_, step_cons hin, rfl, by rw [assertReset_eq], fun h => ?_, fun a ha => ?_⟩,
    fun s rest hin => step_cons hin, fun s rest hinv hreset hin => ?_⟩
  · refine (assertReset_mem f _).trans (if_neg ?_)
    rintro ⟨hf, hflight⟩
    obtain ⟨hb, -⟩ := Bool.and_eq_true_iff.mp hflight
    rcases h with rfl | hidle
    · cases hf
    · exact absurd hb (by simp [hidle])
  · rw [assertReset_mem]
    split
    · exact Memory.byteAt_setWord_ne _ _ ha
    · rfl
  · rw [step_cons hin]
    exact congrArg (fun u : State => Host.Outcome.next { u with inReset := false, inputs := rest })
      (eq_reset_of_inReset hinv hreset)

end Sys2Proof.Proofs
end

section
/-! SUPPORT. A whole run by the engine alone without BusErrors: which fields it leaves alone, and its last step (R119,
R120). -/

namespace Sys2Proof.Proofs

open Sys2Proof Sys2Proof.Machine

variable {s u t : State}

/-- State `u` differs from the state `s` in which RUN was issued only where a run does: in the outcome, COUNT, PREV,
memory and the model's record of the run; nothing is scheduled. -/
def RunFrame (s u : State) : Prop :=
  u = { s with
    busy := u.busy, done := u.done, errCode := u.errCode, errInfo := u.errInfo, count := u.count, prev := u.prev,
    mem := u.mem, inputs := [], runMem := u.runMem, racedIn := u.racedIn, racedOut := u.racedOut }

/-- A step that changes only those fields keeps the frame. -/
theorem RunFrame.of_eq (h : RunFrame s u)
    (ht : t = { u with
      busy := t.busy, done := t.done, errCode := t.errCode, errInfo := t.errInfo, count := t.count, prev := t.prev,
      mem := t.mem, runMem := t.runMem, racedIn := t.racedIn, racedOut := t.racedOut }) : RunFrame s t := by
  refine ht.trans ?_
  rw [h]

/-- Without a BusError on its sample a step of a run does the sample, and ends the run at the last one (R116, R119). -/
theorem InRun.step_eq_advance (h : InRun s [] u) (hchk : s.OperandsChecked) (hbusErrs : u.busErrs = s.busErrs)
    (hok : s.busError .read (s.src.toNat + 4 * u.count.toNat) = false ∧
      s.busError .write (s.dst.toNat + 4 * u.count.toNat) = false) :
    step u = .next (if u.count + 1 = u.len then endRun 0 0 (advance u (u.inputWord u.index))
      else advance u (u.inputWord u.index)) := by
  obtain ⟨hread, hwrite⟩ := hok
  rw [h.step_eq_engineStep, h.engineStep_eq hchk hbusErrs, hread, hwrite, apply_ite Host.Outcome.next]
  rfl

/-- Such a step changes nothing outside the run's own fields. -/
theorem InRun.step_frame (h : InRun s [] u) (hchk : s.OperandsChecked) (hframe : RunFrame s u)
    (hok : s.busError .read (s.src.toNat + 4 * u.count.toNat) = false ∧
      s.busError .write (s.dst.toNat + 4 * u.count.toNat) = false) (hstep : step u = .next t) : RunFrame s t := by
  have hbusErrs : u.busErrs = s.busErrs := by rw [hframe]
  rw [h.step_eq_advance hchk hbusErrs hok, h.advance_eq (fun _ => nofun) hchk] at hstep
  obtain rfl := Host.Outcome.next.inj hstep
  split <;> exact hframe.of_eq rfl

/-- The engine alone comes to sample `i` with everything but the run's own fields as RUN found it. -/
theorem run_reaches_sample_frame (hb : s.busy = false) (hreset : s.inReset = false) (hchk : s.OperandsChecked) {i : Nat}
    (hi : i < s.len.toNat)
    (hok : ∀ j < i, s.busError .read (s.src.toNat + 4 * j) = false ∧ s.busError .write (s.dst.toNat + 4 * j) = false)
    (hu : runSteps (i + 1) (s.issueRun []) = .next u) : RunFrame s u := by
  obtain ⟨v, hv, hstep⟩ := runSteps_succ_iff.mp hu
  induction i generalizing u v with
  | zero =>
    have hlen : s.len ≠ 0 := fun h => by simp [h] at hi
    obtain rfl := runSteps_zero_iff.mp hv
    rw [step_issueRun_checked hb hreset hchk, if_neg hlen] at hstep
    obtain rfl := Host.Outcome.next.inj hstep
    rfl
  | succ i ih =>
    obtain ⟨v', hv', hin, hcount, -⟩ := run_reaches_sample hb hreset hchk (Nat.lt_of_succ_lt hi)
      fun j hj => hok j (by omega)
    obtain rfl := Host.Outcome.next.inj (hv.symm.trans hv')
    obtain ⟨w, hw, hwv⟩ := runSteps_succ_iff.mp hv
    have hframe := ih (Nat.lt_of_succ_lt hi) (fun j hj => hok j (by omega)) hv w hw hwv
    exact hin.step_frame hchk hframe (hcount ▸ hok i (Nat.lt_succ_self i)) hstep

/-- A RUN without BusErrors completes with code 0 after LEN engine steps, every output produced (R119, R120). -/
theorem run_completes (hb : s.busy = false) (hreset : s.inReset = false) (hchk : s.OperandsChecked)
    (hlen : 0 < s.len.toNat) (hok : s.NoBusErrors) :
    ∃ t, runSteps (s.len.toNat + 1) (s.issueRun []) = .next t ∧ Produced s [] s.len.toNat t.mem ∧
      t.prev = inputAt s s.mem (s.len.toNat - 1) ∧
      t = { s with busy := false, done := true, errCode := 0, errInfo := 0, count := s.len, prev := t.prev,
                   mem := t.mem, inputs := [], runMem := [], racedIn := [], racedOut := [] } := by
  obtain ⟨u, hu, hin, hcount, hbusErrs⟩ := run_reaches_sample hb hreset hchk (i := s.len.toNat - 1) (by omega)
    fun j hj => hok j (by omega)
  have hframe := run_reaches_sample_frame hb hreset hchk (by omega) (fun j hj => hok j (by omega)) hu
  have hlast : u.count + 1 = u.len := hin.count_succ.2.mpr (by omega)
  have hnone : ∀ x ∈ [], keepsRules s x := fun _ => nofun
  have hstep := hin.step_eq_advance hchk hbusErrs (hcount ▸ hok (s.len.toNat - 1) (by omega))
  rw [if_pos hlast] at hstep
  have hsteps : runSteps (s.len.toNat - 1 + 1 + 1) (s.issueRun []) = _ := runSteps_succ_iff.mpr ⟨u, hu, hstep⟩
  rw [Nat.sub_add_cancel hlen] at hsteps
  refine ⟨_, hsteps, hin.advance_last_produced hnone hchk hlast, ?_, ?_⟩
  · rw [hin.advance_eq hnone hchk, hcount]
    rfl
  · rw [hin.advance_eq hnone hchk, hlast.trans hin.len]
    exact hframe.of_eq rfl

/-- Memory in which every output is produced holds `preemph` of the input words at DST (R134). -/
theorem Produced.words_eq {m : Memory} (h : Produced s [] s.len.toNat m) :
    m.words s.dst.toNat s.len.toNat = preemph (s.mem.words s.src.toNat s.len.toNat) s.coef := by
  obtain ⟨hlength, hget⟩ := preemphElementwise (s.mem.words s.src.toNat s.len.toNat) s.coef
  refine List.ext_getElem (by rw [hlength, Memory.words_length, Memory.words_length]) fun i hi hi' => ?_
  have hlt : i < s.len.toNat := by simpa using hi
  obtain ⟨_, hout⟩ := List.getElem?_eq_some_iff.mp (hget i (by simpa using hi))
  rw [hout, Memory.words_getElem, h.outputs i hlt, outputAt]
  simp only [Memory.words_getElem, inputAt]

end Sys2Proof.Proofs
end

section
/-! SUPPORT. Proofs of the statements of spec/41_commands.md about what a whole run computes (R119 to R121). -/

namespace Sys2Proof.Proofs

open Sys2Proof Sys2Proof.Machine

/-- Settles O57: the run completes in LEN engine steps (`run_completes`), and what it has produced is `preemph`
(`Produced.words_eq`). -/
theorem runComputesPreemph : Obligations.RunComputesPreemph := by
  intro s hb hreset hchk hlen hok
  obtain ⟨t, hsteps, hproduced, hprev, ht⟩ := run_completes hb hreset hchk hlen hok
  exact ⟨t, hsteps, hproduced.words_eq, fun a ha => hproduced.frame a ha fun _ => nofun, hprev, ht⟩

/-- Settles O59: by `runComputesPreemph` either run's outputs are `preemph` of the same words under the same coefficient,
and its PREV the last of them. -/
theorem runDependsOnInputsOnly : Obligations.RunDependsOnInputsOnly := by
  intro s₁ s₂ hb₁ hreset₁ hchk₁ hlen₁ hok₁ hb₂ hreset₂ hchk₂ hok₂ hcoef hlen hwords
  obtain ⟨t₁, hsteps₁, hout₁, -, hprev₁, ht₁⟩ := runComputesPreemph s₁ hb₁ hreset₁ hchk₁ hlen₁ hok₁
  obtain ⟨t₂, hsteps₂, hout₂, -, hprev₂, ht₂⟩ := runComputesPreemph s₂ hb₂ hreset₂ hchk₂ (hlen ▸ hlen₁) hok₂
  refine ⟨t₁, t₂, hsteps₁, hsteps₂, by rw [hout₁, hout₂, hwords, hcoef], ?_, ?_, ?_⟩
  · rw [ht₁, ht₂]
  · rw [ht₁, ht₂]
    exact hlen
  · rw [← hlen] at hwords
    rw [hprev₁, hprev₂, ← hlen]
    have hlast : s₁.len.toNat - 1 < s₁.len.toNat := by omega
    rw [← Memory.words_getElem s₁.mem _ s₁.len.toNat _ (by simpa using hlast),
      ← Memory.words_getElem s₂.mem _ s₁.len.toNat _ (by simpa using hlast)]
    exact List.getElem_of_eq hwords _

end Sys2Proof.Proofs
end

section
/-! SUPPORT. Accesses to data memory by the host or another master: a write while no run is in progress (R47), what a
read sees during a run (R58), and that every access inside the space answers. -/

namespace Sys2Proof.Proofs

open Sys2Proof Sys2Proof.Machine

/-! ## Writes -/

/-- A write inside the address space answers a next state (log 22). -/
theorem hostStore_next {a : Nat} {bytes : List Byte} (s : State) (h : a + bytes.length ≤ addrLimit) :
    ∃ t, hostStore a bytes s = .next t := by
  rw [hostStore, if_neg (not_lt.mpr h)]
  dsimp only
  split <;> exact ⟨_, rfl⟩

/-- While no run is in progress every byte of a write lands, and nothing else changes (R47). -/
theorem storeBytes_idle {s : State} (hb : s.busy = false) (bytes : List Byte) (a : Nat) :
    storeBytes a bytes s = { s with mem := (storeBytes a bytes s).mem } ∧
    (∀ (k : Nat) (h : k < bytes.length), (storeBytes a bytes s).mem.byteAt (a + k) = bytes[k]) ∧
    (∀ b, b < a ∨ a + bytes.length ≤ b → (storeBytes a bytes s).mem.byteAt b = s.mem.byteAt b) := by
  induction bytes generalizing a s with
  | nil => exact ⟨rfl, nofun, fun _ _ => rfl⟩
  | cons b bytes ih =>
    simp only [storeBytes, storeByte_idle hb, List.length_cons]
    obtain ⟨heq, hland, hkeep⟩ := ih (s := { s with mem := s.mem.set a b }) hb (a + 1)
    refine ⟨heq, fun k hk => ?_, fun c hc => ?_⟩
    · cases k with
      | zero => rw [hkeep _ (by omega), Memory.byteAt_set, if_pos (Nat.add_zero a)]; rfl
      | succ k =>
        rw [show a + (k + 1) = a + 1 + k by omega]
        exact hland k (Nat.lt_of_succ_lt_succ hk)
    · rw [hkeep c (by omega), Memory.byteAt_set, if_neg (by omega)]

/-- No access races while no run is in progress (R58). -/
theorem racesAny_idle {s : State} (hb : s.busy = false) (a n : Nat) : s.racesAny a n = false := by
  simp [State.racesAny, State.races, hb]

/-! ## Reads -/

/-- Byte `k` of a word in memory is the one at `a + k` (R45). -/
theorem byteLane_wordAt (m : Memory) (a : Nat) {k : Nat} (h : k < 4) : byteLane (m.wordAt a) k = m.byteAt (a + k) := by
  rw [Memory.wordAt, byteLane]
  interval_cases k
  · exact BitVec.extractLsb'_append_eq_right
  · rw [BitVec.extractLsb'_append_eq_of_le (by decide)]
    exact BitVec.extractLsb'_append_eq_right
  · rw [BitVec.extractLsb'_append_eq_of_le (by decide), BitVec.extractLsb'_append_eq_of_le (by decide)]
    exact BitVec.extractLsb'_append_eq_right
  · rw [BitVec.extractLsb'_append_eq_of_le (by decide), BitVec.extractLsb'_append_eq_of_le (by decide)]
    exact BitVec.extractLsb'_append_eq_left

/-- A read inside the address space answers the word whose four bytes it sees, and leaves memory alone (R76, log 22). -/
theorem hostLoad_of_seen {s : State} {a : Nat} {w : Word} (ha : a + 4 ≤ addrLimit)
    (hseen : ∀ k < 4, s.seenByte (a + k) = byteLane w k) :
    ∃ t, hostLoad a s = .next t ∧ t.readData = some w ∧ t.mem = s.mem := by
  have h0 : s.seenByte a = byteLane w 0 := hseen 0 (by decide)
  rw [hostLoad, if_neg (not_lt.mpr ha), hseen 3 (by decide), hseen 2 (by decide), hseen 1 (by decide), h0, bytes_of_word]
  dsimp only
  split <;> exact ⟨_, rfl, rfl, rfl⟩

/-- The word a read of output `j` sees during a run (R58): any value if it is raced, else the one before the run or the
one the run puts there (log 11). -/
def seenOutput (s : State) (j : Nat) : Word :=
  if s.outputRaced j then Config.freeWord .racedOutput s.freeCount j
  else if Config.seesOld s.freeCount j then Memory.wordAt s.runMem (sampleAddr s.dst j)
  else s.newWord j

theorem seenOutput_cases (s : State) (j : Nat) :
    s.outputRaced j = true ∨ seenOutput s j = Memory.wordAt s.runMem (sampleAddr s.dst j) ∨
    seenOutput s j = s.newWord j := by
  rw [seenOutput]
  split_ifs with hraced
  · exact .inl hraced
  · exact .inr (.inl rfl)
  · exact .inr (.inr rfl)

/-- Each byte seen of an output word is that byte of the one word. -/
theorem seenByte_output {s : State} {j k : Nat} (hb : s.busy = true) (hj : j < s.len.toNat) (hk : k < 4) :
    s.seenByte (sampleAddr s.dst j + k) = byteLane (seenOutput s j) k := by
  have hin : inRegion s.dst s.len (sampleAddr s.dst j + k) = true := by
    rw [inRegion_iff]
    simp only [sampleAddr]
    omega
  have hsample : sampleOf s.dst (sampleAddr s.dst j + k) = j := by
    simp only [sampleOf, sampleAddr]
    omega
  have hlane : (sampleAddr s.dst j + k - s.dst.toNat) % 4 = k := by
    simp only [sampleAddr]
    omega
  rw [State.seenByte, hb, hin, Bool.and_self, if_pos rfl]
  simp only [hsample, hlane, seenOutput]
  split_ifs
  · rfl
  · exact (byteLane_wordAt _ _ hk).symm
  · rfl

/-- Of a byte outside the output region a read sees what memory holds. -/
theorem seenByte_outside {s : State} {a : Nat} (h : inRegion s.dst s.len a = false) :
    s.seenByte a = s.mem.byteAt a := by
  simp [State.seenByte, h]

end Sys2Proof.Proofs
end

section
/-! SUPPORT. Proofs of the statements of spec/20_memory.md about the accesses of the host and of other masters, in a run
and outside one (R47, R58). -/

namespace Sys2Proof.Proofs

open Sys2Proof Sys2Proof.Machine

/-- Settles O36: outside a run a write is `storeBytes_idle`, and draws no free value (`racesAny_idle`). -/
theorem hostStoreWhenIdle : Obligations.HostStoreWhenIdle := by
  intro s a bytes hb hspace
  have hstore : hostStore a bytes s = .next (storeBytes a bytes s) := by
    have hin : ¬ addrLimit < a + bytes.length := not_lt.mpr hspace
    rw [hostStore, if_neg hin, racesAny_idle hb]
    rfl
  exact ⟨_, hstore, storeBytes_idle hb bytes a⟩

/-- Settles O37: RUN records memory (`exec_starts`) and no step of a run changes the record (`step_busy_cases`); a read
of an output sees one word (`seenByte_output`, `seenOutput_cases`), and a read of an input, which is in no output, what
memory holds (`seenByte_outside`). -/
theorem racingReads : Obligations.RacingReads := by
  refine ⟨fun i s t hidle hex hb => ?_, fun s t h hb hbt => ?_, fun s j hinv hb hj => ?_⟩
  · obtain ⟨rfl, -⟩ := exec_starts hex hidle hb
    rfl
  · rcases step_busy_cases hb h with ⟨r, heng⟩ | hidle | ht
    · obtain ⟨-, rfl⟩ := engineStep_going heng hbt
      rw [advance_eq]
    · rw [hbt] at hidle
      cases hidle
    · rw [ht]
  · obtain ⟨-, -, -, ⟨hsrc, hdst, hsrcEnd, hdstEnd, hdisj⟩, -⟩ := runInv_of_inv hinv hb
    have hout := (sampleAddr_aligned_inSpace hdst hdstEnd hj).2
    have hin := (sampleAddr_aligned_inSpace hsrc hsrcEnd hj).2
    constructor
    · obtain ⟨t, ht, hread, hmem⟩ := hostLoad_of_seen hout fun k hk => seenByte_output hb hj hk
      exact ⟨t, _, ht, hread, hmem, seenOutput_cases s j⟩
    · refine hostLoad_of_seen hin fun k hk => ?_
      have houtside : inRegion s.dst s.len (sampleAddr s.src j + k) = false := by
        rw [Bool.eq_false_iff, Ne, inRegion_iff]
        simp only [sampleAddr, regionEnd] at *
        omega
      exact (seenByte_outside houtside).trans (byteLane_wordAt _ _ hk).symm

/-- Settles O38: the write answers (`hostStore_next`) with the frame of `hostStore_eq`; the races and the bytes are those
of `storeBytes_spec`. -/
theorem racingWrites : Obligations.RacingWrites := by
  intro s a bytes hinv hb hspace
  obtain ⟨-, hlt, -, ⟨-, -, -, -, hdisj⟩, -⟩ := runInv_of_inv hinv hb
  obtain ⟨t, ht⟩ := hostStore_next s hspace
  refine ⟨t, ht, hostStore_eq ht, ?_⟩
  rw [hostStore_eq_storeBytes ht]
  exact storeBytes_spec bytes a s hb hdisj hlt.le

end Sys2Proof.Proofs
end

section
/-! SUPPORT. One engine step: that it answers, what it writes, and which memory it leaves (R116 to R118). -/

namespace Sys2Proof.Proofs

open Sys2Proof Sys2Proof.Machine

/-- From a running state of the invariant the engine's step answers (R69). -/
theorem engineStep_next_of_inv {s : State} (hinv : s.Inv) (hb : s.busy = true) : ∃ t, engineStep s = .next t := by
  obtain ⟨t, ht⟩ := engineTurn_next hinv
  exact ⟨t, (engineTurn_busy hb).symm.trans ht⟩

/-- An output that is not raced is written with `fir`'s word, which draws no free value (R116, R130). -/
theorem outputWord_unraced {s : State} {i : Nat} (h : s.outputRaced i = false) (x : Word) :
    s.outputWord i x = fir i x s.prev s.coef := by
  simp [State.outputWord, h]

/-- What an engine step leaves in memory is what it held, or one word replaced at DST + 4·COUNT (R116 to R118). -/
theorem engineStep_mem {s t : State} (h : engineStep s = .next t) :
    t.mem = s.mem ∨ ∃ y, t.mem = s.mem.setWord s.writeAddr y := by
  obtain ⟨-, ⟨-, rfl⟩ | ⟨-, -, ⟨-, rfl⟩ | ⟨-, ⟨-, rfl⟩ | ⟨-, rfl⟩⟩⟩⟩ := engineStep_cases h
  · exact .inl rfl
  · exact .inr ⟨_, rfl⟩
  · rw [advance_eq]
    exact .inr ⟨_, rfl⟩
  · rw [advance_eq]
    exact .inr ⟨_, rfl⟩

end Sys2Proof.Proofs
end

section
/-! SUPPORT. Proofs of the statements of spec/41_commands.md about one engine step (R116 to R119). -/

namespace Sys2Proof.Proofs

open Sys2Proof Sys2Proof.Machine

/-- Settles O39: without a BusError the step has the last two ends of `engineStep_cases`, both `advance`. -/
theorem engineStepAdvances : Obligations.EngineStepAdvances := by
  intro s hinv hb hread hwrite
  obtain ⟨-, hlt, -⟩ := runInv_of_inv hinv hb
  obtain ⟨-, hend⟩ := count_succ hlt
  obtain ⟨t, ht⟩ := engineStep_next_of_inv hinv hb
  refine ⟨s.inputWord s.index, s.outputWord s.index (s.inputWord s.index), advance s (s.inputWord s.index), t, rfl,
    fun hraced => ⟨outputWord_unraced hraced _, ?_⟩, ?_, ht, fun hmore => ?_, fun hlast => ?_⟩
  · rw [advance_eq]
    exact if_neg (Bool.eq_false_iff.mp hraced)
  · rw [advance_eq]
    rfl
  all_goals
    obtain ⟨-, ⟨herr, -⟩ | ⟨-, -, ⟨herr, -⟩ | ⟨-, ⟨hcount, rfl⟩ | ⟨hcount, rfl⟩⟩⟩⟩ := engineStep_cases ht
    · exact absurd herr (Bool.eq_false_iff.mp hread)
    · exact absurd herr (Bool.eq_false_iff.mp hwrite)
  · exact absurd (hend.mp hcount) hmore
  · rfl
  · rfl
  · exact absurd (hend.mpr hlast) hcount

/-- Settles O40: of the ends of `engineStep_cases` the first is the read's BusError and the second the write's, which
replaces one word of memory. -/
theorem busErrorEndsRun : Obligations.BusErrorEndsRun := by
  intro s hinv hb
  obtain ⟨t, ht⟩ := engineStep_next_of_inv hinv hb
  obtain ⟨-, hends⟩ := engineStep_cases ht
  refine ⟨fun hread => ⟨t, ht, ?_⟩, fun hread hwrite => ⟨t, ht, ?_⟩⟩
  · obtain ⟨-, rfl⟩ | ⟨hok, -⟩ := hends
    · rfl
    · exact absurd hread (Bool.eq_false_iff.mp hok)
  · obtain ⟨herr, -⟩ | ⟨-, -, ⟨-, rfl⟩ | ⟨hok, -⟩⟩ := hends
    · exact absurd herr (Bool.eq_false_iff.mp hread)
    · exact ⟨rfl, fun a ha => Memory.byteAt_setWord_ne _ _ ha⟩
    · exact absurd hwrite (Bool.eq_false_iff.mp hok)

/-- Settles O41: the registers are those of `engineStep_keeps`, and one word of memory at most changes
(`engineStep_mem`). -/
theorem engineStepFrame : Obligations.EngineStepFrame := by
  intro s t h
  obtain ⟨hirq, hovr, hcoef, hsrc, hdst, hlen, -, hreset, hinputs, hread⟩ := engineStep_keeps h
  refine ⟨hirq, hovr, hcoef, hsrc, hdst, hlen, hreset, hinputs, hread, fun a ha => ?_⟩
  rcases engineStep_mem h with hmem | ⟨y, hmem⟩ <;> rw [hmem]
  exact Memory.byteAt_setWord_ne _ _ ha

end Sys2Proof.Proofs
end

section
/-! SUPPORT. Binary32 words by their fields (R122, R123), their exact values, and what the operations answer class by
class (R124 to R128). -/

namespace Sys2Proof.Proofs

open Sys2Proof Sys2Proof.Machine

/-! ## A word's fields -/

/-- A word is its sign above its 31-bit pattern (R122). -/
theorem sign_append_pattern (w : Word) : BitVec.ofBool (fpSign w) ++ w.extractLsb' 0 31 = w := by
  have hsign : BitVec.ofBool (fpSign w) = w.extractLsb' 31 1 := by
    ext i hi
    obtain rfl : i = 0 := by omega
    simp [fpSign]
  calc BitVec.ofBool (fpSign w) ++ w.extractLsb' 0 31 = w.extractLsb' 0 32 := by
        rw [hsign]
        exact BitVec.extractLsb'_append_extractLsb'_eq_extractLsb' (by decide)
    _ = w := BitVec.extractLsb'_eq_self

/-- The pattern as a number is E above F (R122). -/
theorem pattern_toNat (w : Word) : (w.extractLsb' 0 31).toNat = (fpExp w).toNat * 8388608 + (fpFrac w).toNat := by
  simp only [fpExp, fpFrac, BitVec.extractLsb'_toNat, Nat.shiftRight_eq_div_pow]
  omega

/-! The classes of R123 by the pattern, so that which exclude each other is arithmetic. -/

theorem isZero_iff_pattern (w : Word) : isZero w = true ↔ (w.extractLsb' 0 31).toNat = 0 := by
  rw [isZero, beq_iff_eq, ← BitVec.toNat_inj]
  rfl

theorem isInf_iff_pattern (w : Word) : isInf w = true ↔ (w.extractLsb' 0 31).toNat = 0x7F800000 := by
  rw [isInf, beq_iff_eq, ← BitVec.toNat_inj]
  rfl

theorem isFinite_iff_pattern (w : Word) : isFinite w = true ↔ (w.extractLsb' 0 31).toNat < 0x7F800000 := by
  have hexp := (fpExp w).isLt
  have hfrac := (fpFrac w).isLt
  rw [isFinite, bne_iff_ne, Ne, ← BitVec.toNat_inj, pattern_toNat]
  simp only [BitVec.ofNat_eq_ofNat, BitVec.toNat_ofNat]
  omega

theorem isNaN_iff_pattern (w : Word) : isNaN w = true ↔ 0x7F800000 < (w.extractLsb' 0 31).toNat := by
  have hexp := (fpExp w).isLt
  have hfrac := (fpFrac w).isLt
  rw [isNaN, Bool.and_eq_true, beq_iff_eq, bne_iff_ne, Ne, ← BitVec.toNat_inj, ← BitVec.toNat_inj, pattern_toNat]
  simp only [BitVec.ofNat_eq_ofNat, BitVec.toNat_ofNat]
  omega

theorem classes_of_finite {w : Word} (h : isFinite w = true) : isNaN w = false ∧ isInf w = false := by
  simp only [Bool.eq_false_iff, ne_eq, isFinite_iff_pattern, isNaN_iff_pattern, isInf_iff_pattern] at *
  omega

theorem classes_of_inf {w : Word} (h : isInf w = true) : isNaN w = false ∧ isZero w = false := by
  simp only [Bool.eq_false_iff, ne_eq, isZero_iff_pattern, isNaN_iff_pattern, isInf_iff_pattern] at *
  omega

theorem finite_of_isZero {w : Word} (h : isZero w = true) : isFinite w = true := by
  simp only [isZero_iff_pattern, isFinite_iff_pattern] at *
  omega

/-- What is no NaN and no infinity is finite (R123). -/
theorem finite_of_classes {w : Word} (hnan : isNaN w = false) (hinf : isInf w = false) : isFinite w = true := by
  simp only [Bool.eq_false_iff, ne_eq, isFinite_iff_pattern, isNaN_iff_pattern, isInf_iff_pattern] at *
  omega

theorem pattern_pos {w : Word} (h : isZero w = false) : 0 < (w.extractLsb' 0 31).toNat :=
  Nat.pos_of_ne_zero fun h0 => Bool.eq_false_iff.mp h ((isZero_iff_pattern w).mpr h0)

/-! ## Exact values -/

theorem units_natAbs (w : Word) : (units w).natAbs = magUnits (w.extractLsb' 0 31).toNat := by
  rw [units]
  split <;> simp

/-- Only the words of value zero have the value 0. -/
theorem units_ne_zero {w : Word} (h : isZero w = false) : units w ≠ 0 := by
  have hmag : 0 < magUnits (w.extractLsb' 0 31).toNat :=
    (Nat.zero_le _).trans_lt (magUnits_strictMono (pattern_pos h))
  rw [← Int.natAbs_ne_zero, units_natAbs]
  omega

/-- The sign of a nonzero value is the word's. -/
theorem units_neg {w : Word} (h : isZero w = false) : decide (units w < 0) = fpSign w := by
  have hne := units_ne_zero h
  rw [units] at hne ⊢
  cases fpSign w
  · simp
  · simp at hne ⊢
    omega

/-- 1.0 is finite, positive and 2^149 units (R122). -/
theorem units_one : isFinite 0x3F800000 = true ∧ isZero 0x3F800000 = false ∧ fpSign 0x3F800000 = false ∧
    units 0x3F800000 = 2 ^ 149 := by
  decide

/-- A product of nonzero values is negative when their signs differ. -/
theorem decide_mul_neg {x y : Int} (hx : x ≠ 0) (hy : y ≠ 0) :
    decide (x * y < 0) = (decide (x < 0) ^^ decide (y < 0)) := by
  rw [Bool.eq_iff_iff, decide_eq_true_iff, mul_neg_iff]
  simp only [bne_iff_ne, ne_eq, decide_eq_decide]
  omega

/-- A magnitude of the format rounds to its own pattern at every scale: no other is as near (R124). -/
theorem roundMag_scaledMag (q : Nat) {b : Nat} (hpos : 0 < b) (hb : b ≤ 0x7F800000) :
    roundMag (scaledMag q b) q = b := by
  have hn : 0 < scaledMag q b := (Nat.zero_le _).trans_lt (scaledMag_strictMono q hpos)
  obtain ⟨hnearest, -⟩ := roundMag_nearest q hn hb
  refine (scaledMag_strictMono q).injective ?_
  omega

/-- A finite word rounds to itself at every scale of its magnitude (R124). -/
theorem round32_units {w : Word} (q : Nat) (hfin : isFinite w = true) (hzero : isZero w = false) :
    round32 (fpSign w) ((units w).natAbs * 2 ^ q) q = w := by
  have hround := roundMag_scaledMag q (pattern_pos hzero) ((isFinite_iff_pattern w).mp hfin).le
  rw [scaledMag] at hround
  rw [units_natAbs, round32, hround, BitVec.ofNat_toNat, BitVec.setWidth_eq, sign_append_pattern]

/-! ## NAN_RESULT -/

theorem fpExp_nanResult (op : NanOp) : fpExp (nanResult op) = 0xFF := by
  rw [fpExp, nanResult, BitVec.extractLsb'_append_eq_of_le (by decide), BitVec.extractLsb'_append_eq_of_le (by decide)]
  exact BitVec.extractLsb'_append_eq_right

theorem quietBit_nanResult (op : NanOp) : (nanResult op).getLsbD 22 = true := by
  rw [nanResult, BitVec.getLsbD_append, BitVec.getLsbD_append]
  rfl

theorem isQuietNaN_nanResult (op : NanOp) : isQuietNaN (nanResult op) = true := by
  rw [isQuietNaN, fpExp_nanResult, quietBit_nanResult]
  rfl

/-- The quiet bit alone makes the fraction nonzero. -/
theorem isNaN_nanResult (op : NanOp) : isNaN (nanResult op) = true := by
  have hbit : (fpFrac (nanResult op)).getLsbD 22 = true := by
    rw [fpFrac, BitVec.getLsbD_extractLsb', Nat.zero_add, quietBit_nanResult]
    rfl
  have hfrac : fpFrac (nanResult op) ≠ 0 := fun h => by
    rw [h] at hbit
    cases hbit
  rw [isNaN, fpExp_nanResult, Bool.and_eq_true]
  exact ⟨rfl, bne_iff_ne.mpr hfrac⟩

/-! ## The product -/

variable {a b : Word}

theorem f32Mul_nan (h : isNaN a = true ∨ isNaN b = true) : f32Mul a b = nanResult (.mul a b) := by
  simp [f32Mul, h]

theorem f32Mul_inf_zero (h : (isInf a = true ∧ isZero b = true) ∨ (isZero a = true ∧ isInf b = true)) :
    f32Mul a b = nanResult (.mul a b) := by
  simp [f32Mul, h]

theorem f32Mul_inf (hinf : isInf a = true ∨ isInf b = true) (hnan : isNaN a = false ∧ isNaN b = false)
    (hzero : isZero a = false ∧ isZero b = false) : f32Mul a b = fpInf (fpSign a ^^ fpSign b) := by
  simp [f32Mul, hnan, hzero, hinf]

theorem f32Mul_zero (hzero : isZero a = true ∨ isZero b = true) (ha : isFinite a = true) (hb : isFinite b = true) :
    f32Mul a b = fpZero (fpSign a ^^ fpSign b) := by
  simp [f32Mul, classes_of_finite ha, classes_of_finite hb, hzero]

theorem f32Mul_finite (ha : isFinite a = true) (hb : isFinite b = true) (hza : isZero a = false)
    (hzb : isZero b = false) : f32Mul a b = round32 (fpSign a ^^ fpSign b) (units a * units b).natAbs 149 := by
  simp [f32Mul, classes_of_finite ha, classes_of_finite hb, hza, hzb]

/-! ## The difference -/

theorem f32Sub_nan (h : isNaN a = true ∨ isNaN b = true) : f32Sub a b = nanResult (.sub a b) := by
  simp [f32Sub, h]

theorem f32Sub_inf_inf (ha : isInf a = true) (hb : isInf b = true) :
    f32Sub a b = if fpSign a = fpSign b then nanResult (.sub a b) else a := by
  simp [f32Sub, classes_of_inf ha, classes_of_inf hb, ha, hb]

theorem f32Sub_inf_finite (ha : isInf a = true) (hb : isFinite b = true) : f32Sub a b = a := by
  simp [f32Sub, classes_of_inf ha, classes_of_finite hb, ha]

theorem f32Sub_finite_inf (ha : isFinite a = true) (hb : isInf b = true) : f32Sub a b = fpInf (!fpSign b) := by
  simp [f32Sub, classes_of_finite ha, classes_of_inf hb, hb]

theorem f32Sub_zero_zero (ha : isZero a = true) (hb : isZero b = true) :
    f32Sub a b = if fpSign a = fpSign b then 0 else a := by
  simp [f32Sub, classes_of_finite (finite_of_isZero ha), classes_of_finite (finite_of_isZero hb), ha, hb]
  rfl

theorem f32Sub_finite (ha : isFinite a = true) (hb : isFinite b = true) (hzero : isZero a = false ∨ isZero b = false) :
    f32Sub a b = if units a - units b = 0 then 0
      else round32 (decide (units a - units b < 0)) (units a - units b).natAbs 0 := by
  have hboth : (isZero a && isZero b) = false := Bool.and_eq_false_iff.mpr hzero
  simp only [f32Sub, classes_of_finite ha, classes_of_finite hb, hboth]
  rfl

end Sys2Proof.Proofs
end

section
/-! SUPPORT. Proofs of the statements of spec/42_fir_sample.md about the binary32 operations, case by case. -/

namespace Sys2Proof.Proofs

open Sys2Proof Sys2Proof.Machine

/-- Settles O45: E and the quiet bit are the two constants of `nanResult`. -/
theorem nanResultsAreQuiet : Obligations.NanResultsAreQuiet :=
  fun op => ⟨fpExp_nanResult op, quietBit_nanResult op, isNaN_nanResult op⟩

/-- Settles O46: a lemma per class of operands; the sign of the exact product is that of its factors
(`decide_mul_neg`, `units_neg`). -/
theorem f32MulCases : Obligations.F32MulCases := by
  refine fun a b => ⟨fun h => ?_, fun ha hb => ?_, fun ha hnb hzb => ?_, fun ha hb => ?_, fun ha hb hza hzb => ?_⟩
  · rw [f32Mul_nan h]
    exact isQuietNaN_nanResult _
  · rw [f32Mul_inf_zero (.inl ⟨ha, hb⟩), f32Mul_inf_zero (.inr ⟨hb, ha⟩)]
    exact ⟨isQuietNaN_nanResult _, isQuietNaN_nanResult _⟩
  · obtain ⟨hna, hza⟩ := classes_of_inf ha
    refine ⟨f32Mul_inf (.inl ha) ⟨hna, hnb⟩ ⟨hza, hzb⟩, ?_⟩
    rw [f32Mul_inf (.inr ha) ⟨hnb, hna⟩ ⟨hzb, hza⟩, Bool.xor_comm]
  · have hfa := finite_of_isZero ha
    refine ⟨f32Mul_zero (.inl ha) hfa hb, ?_⟩
    rw [f32Mul_zero (.inr ha) hb hfa, Bool.xor_comm]
  · have hua := units_ne_zero hza
    have hub := units_ne_zero hzb
    have hsign : decide (units a * units b < 0) = (fpSign a ^^ fpSign b) := by
      rw [decide_mul_neg hua hub, units_neg hza, units_neg hzb]
    refine ⟨_, rfl, mul_ne_zero hua hub, hsign, ?_⟩
    rw [f32Mul_finite ha hb hza hzb, hsign]

/-- Settles O47: a lemma per class of operands; x minus itself is the case of two zeros of one sign, or of the exact
difference 0. -/
theorem f32SubCases : Obligations.F32SubCases := by
  refine fun a b => ⟨fun h => ?_, fun ha hb hs => ?_, fun ha hb hs => ?_, f32Sub_inf_finite, f32Sub_finite_inf,
    fun ha hb hs => ?_, fun ha hb hs => ?_, fun ha => ?_, fun ha hb hzero => ⟨_, rfl, fun hr => ?_, fun hr => ?_⟩⟩
  · rw [f32Sub_nan h]
    exact isQuietNaN_nanResult _
  · rw [f32Sub_inf_inf ha hb, if_pos hs]
    exact isQuietNaN_nanResult _
  · rw [f32Sub_inf_inf ha hb, if_neg hs]
  · rw [f32Sub_zero_zero ha hb, if_neg hs]
  · rw [f32Sub_zero_zero ha hb, if_pos hs]
  · rcases Bool.eq_false_or_eq_true (isZero a) with hzero | hzero
    · rw [f32Sub_zero_zero hzero hzero, if_pos rfl]
    · rw [f32Sub_finite ha ha (.inl hzero), if_pos (sub_self _)]
  · rw [f32Sub_finite ha hb hzero, if_pos hr]
  · rw [f32Sub_finite ha hb hzero, if_neg hr]

/-- Settles O49: the pattern is E·2^23 + F (`pattern_toNat`), which `magUnits` takes apart, and the word rounds to itself
(`round32_units`). -/
theorem representableRoundsToItself : Obligations.RepresentableRoundsToItself := by
  intro w q hfin
  have hfrac := (fpFrac w).isLt
  have hpattern := pattern_toNat w
  refine ⟨fun hexp => ?_, fun hexp => ?_, round32_units q hfin⟩
  · have hmag : magUnits (w.extractLsb' 0 31).toNat = (fpFrac w).toNat := by
      rw [magUnits, if_pos (by omega)]
      omega
    rw [units, hmag]
    split <;> simp
  · have hmag : magUnits (w.extractLsb' 0 31).toNat = (2 ^ 23 + (fpFrac w).toNat) * 2 ^ ((fpExp w).toNat - 1) := by
      rw [magUnits, if_neg (by omega), show (w.extractLsb' 0 31).toNat / 8388608 = (fpExp w).toNat by omega,
        show (w.extractLsb' 0 31).toNat % 8388608 = (fpFrac w).toNat by omega]
      norm_num
    rw [units, hmag]
    split <;> simp

/-- Settles O50: an infinity and a zero keep their sign, and the exact product of a finite word with 1.0 is its own value
at the scale 2^-149, which rounds to it (`round32_units`). -/
theorem productWithOne : Obligations.ProductWithOne := by
  intro w hnan
  obtain ⟨hone, honeZero, honeSign, honeUnits⟩ := units_one
  obtain ⟨honeNan, -⟩ := classes_of_finite hone
  rcases Bool.eq_false_or_eq_true (isInf w) with hinf | hinf
  · obtain ⟨-, hzero⟩ := classes_of_inf hinf
    have hw : fpInf (fpSign w) = w := by
      rw [fpInf, ← beq_iff_eq.mp hinf, sign_append_pattern]
    rw [f32Mul_inf (.inr hinf) ⟨honeNan, hnan⟩ ⟨honeZero, hzero⟩,
      f32Mul_inf (.inl hinf) ⟨hnan, honeNan⟩ ⟨hzero, honeZero⟩, honeSign, Bool.false_xor, Bool.xor_false, hw]
    exact ⟨rfl, rfl⟩
  · have hfin := finite_of_classes hnan hinf
    rcases Bool.eq_false_or_eq_true (isZero w) with hzero | hzero
    · have hw : fpZero (fpSign w) = w := by
        rw [fpZero, ← beq_iff_eq.mp hzero, sign_append_pattern]
      rw [f32Mul_zero (.inr hzero) hone hfin, f32Mul_zero (.inl hzero) hfin hone, honeSign, Bool.false_xor,
        Bool.xor_false, hw]
      exact ⟨rfl, rfl⟩
    · have habs : (units w * 2 ^ 149).natAbs = (units w).natAbs * 2 ^ 149 := by
        rw [Int.natAbs_mul, Int.natAbs_pow]
        rfl
      rw [f32Mul_finite hone hfin honeZero hzero, f32Mul_finite hfin hone hzero honeZero, honeSign, Bool.false_xor,
        Bool.xor_false, honeUnits, Int.mul_comm, habs, round32_units 149 hfin hzero]
      exact ⟨rfl, rfl⟩

end Sys2Proof.Proofs
end
